-- ==== Sys2Proof/Word.lean ====
section
/-! DEFINITION. The bit vectors that cross the ports of the decimalsense32 CORE, at the widths of
rule R7 (spec/00_scope.md) and rule R61 (spec/30_encoding.md). Everything that computes on them
stands in files under Sys2Proof/Machine. -/

namespace Sys2Proof

/-- The 32-bit packed word of one decimal value, rule R21. -/
abbrev Word := BitVec 32

/-- One byte of the renderer's output port, rule R45. -/
abbrev Byte := BitVec 8

/-- The 64-bit binary64 port of both converters, rules R44 and R170. -/
abbrev Binary64 := BitVec 64

/-- A one-bit sign port: 1 is negative, rule R63. -/
abbrev SignBit := BitVec 1

/-- `MANT_IN_WIDTH` and `DEC_MANT_OUT_WIDTH` of rule R7: 27 bits unsigned. -/
abbrev MantBits := BitVec 27

/-- `LEAD_IN_WIDTH` of rule R7: 4 bits unsigned. -/
abbrev LeadBits := BitVec 4

/-- `TRAIL_IN_WIDTH` of rule R7: 24 bits unsigned. -/
abbrev TrailBits := BitVec 24

/-- `EXP_IN_WIDTH` and `DEC_EXP_OUT_WIDTH` of rule R7: 8 bits two's complement. -/
abbrev ExpBits := BitVec 8

/-- `SHIFT_AMT_WIDTH` of rule R7: 8 bits two's complement. -/
abbrev AmtBits := BitVec 8

/-- `SHIFT_DATA_WIDTH` of rule R7: 32 bits unsigned. -/
abbrev ShiftData := BitVec 32

/-- The 4-bit op code of the command view, rule R62. -/
abbrev OpBits := BitVec 4

end Sys2Proof
end

