-- ==== Sys2Proof/Machine/Operands.lean ====
section
/-! DEFINITION. How an operand port is read (rule R63) and the fields of a word (rules R21 and R60). -/

namespace Sys2Proof.Machine

/-- `signed(v)` of rule R11 for the 8-bit exponent and shift-amount ports: two's complement. -/
def signed (v : BitVec 8) : Int :=
  v.toInt

/-- An integer driven on an 8-bit two's complement port: `e[7:0]` of rule R101. -/
def toExpBits (e : Int) : ExpBits :=
  BitVec.ofInt 8 e

/-- The sign field `s = w[31]`, rule R60. -/
def signOf (w : Word) : SignBit :=
  w.extractLsb' 31 1

/-- The exponent field `E = w[30:25]`, rule R60. -/
def expField (w : Word) : Nat :=
  (w.extractLsb' 25 6).toNat

/-- The mantissa field `F = w[24:0]`, rule R60. -/
def mantField (w : Word) : Nat :=
  (w.extractLsb' 0 25).toNat

/-- `w[30:0]`: a word without its sign, rules R133 and R190. -/
def magnitude (w : Word) : BitVec 31 :=
  w.extractLsb' 0 31

/-- `word(s, E, F)` of rule R12: the fields `s`, `E[5:0]` and `F[24:0]`, most significant first. -/
def mkWord (s : SignBit) (E F : Nat) : Word :=
  s ++ BitVec.ofNat 6 E ++ BitVec.ofNat 25 F

/-- The Infinity word `INF(s)`, rules R12 and R22. -/
def infWord (s : SignBit) : Word :=
  mkWord s 63 25165824

/-- The canonical NaN word `QNAN(s)`, rules R12 and R23. -/
def qnanWord (s : SignBit) : Word :=
  s ++ (0x7FC00000#32).extractLsb' 0 31

/-- The zero word `word(s, 0, 0)` of rules R131 and R150. -/
def zeroWord (s : SignBit) : Word :=
  mkWord s 0 0

/-- The regions of rule R24. They are selected by `E` alone (rule R60). -/
inductive Region where
  /-- E = 0..13: decoded exponents -48..-7, 7 stored digits. The subnormals lie here. -/
  | bLow
  /-- E = 14..49: decoded exponents -6..5, 8 stored digits. -/
  | a
  /-- E = 50..63: decoded exponents 6..47, 7 stored digits. -/
  | bHigh
deriving DecidableEq, Repr

/-- The region of an exponent field, rule R24. -/
def regionOf (E : Nat) : Region :=
  if E ≤ 13 then .bLow else if E ≤ 49 then .a else .bHigh

end Sys2Proof.Machine
end

