-- ==== Sys2Proof/Config.lean ====
section
/-! DEFINITION. What an implementation fixes and the spec leaves open: the byte order of a stored
word (rule R43, the one point of spec/92_eei_decisions.md left OPEN), and what a binary64 product is
when an operand is not finite (outside rule R182's use of `fp64_mul`). Neither has a body. -/

namespace Sys2Proof

/-- The two values of the parameter `WORD_BYTE_ORDER`, rule R43. -/
inductive ByteOrder where
  /-- The most significant byte at the lowest address. -/
  | big
  /-- The least significant byte at the lowest address. -/
  | little
deriving DecidableEq, Repr, Inhabited

/-- `WORD_BYTE_ORDER`: OPEN (rules R7 and R43, decision D20). Nothing can be proved of its value. No
unit reads it. Log entry 4. -/
opaque Config.wordByteOrder : ByteOrder

/-- `fp64_mul` (rule R12) of operands of which at least one is a binary64 Infinity or NaN. The spec
never multiplies such operands (rule R182) and gives no NaN pattern for them, so the value is free.
Log entry 6. -/
opaque Config.nonFiniteProduct : Binary64 → Binary64 → Binary64

end Sys2Proof
end

