-- ==== Sys2Proof/Syntax.lean ====
section
/-! DEFINITION. The command view of spec/30_encoding.md: one constructor of `Instr` for each row of
spec/opcode_table.json (rules R62 and R64), with the operands of its format (rule R73) at the widths
of rule R61, and the command view's input ports. -/

namespace Sys2Proof

/-- A command with its operand values. An operand is the value of the port it names (rule R63), so
its type is that port's width and no operand value is out of range. -/
inductive Instr where
  /-- Op 0x0, format CMD_ENC_M: encode from an 8-digit mantissa (rule R103). -/
  | encm (sign : SignBit) (mant8 : MantBits) (exp : ExpBits)
  /-- Op 0x1, format CMD_ENC_D: encode from a leading digit and 7 trailing digits (rule R105). -/
  | encd (sign : SignBit) (lead : LeadBits) (trail : TrailBits) (exp : ExpBits)
  /-- Op 0x2, format CMD_W: decode a word into a triple (rule R101). -/
  | dec (w : Word)
  /-- Op 0x3, format CMD_SHIFT: rescale a magnitude by a power of ten (rule R120). -/
  | shift (x : ShiftData) (amt : AmtBits)
  /-- Op 0x4, format CMD_AB: decimal addition (rule R132). -/
  | add (a b : Word)
  /-- Op 0x5, format CMD_AB: decimal subtraction (rule R134). -/
  | sub (a b : Word)
  /-- Op 0x6, format CMD_A: flip the sign (rule R133). -/
  | neg (a : Word)
  /-- Op 0x7, format CMD_AB: decimal multiplication (rule R150). -/
  | mul (a b : Word)
  /-- Op 0x8, format CMD_AB: decimal division, `a` by `b` (rule R152). -/
  | div (a b : Word)
  /-- Op 0x9, format CMD_F: binary64 to word (rule R173). -/
  | f2d (f : Binary64)
  /-- Op 0xA, format CMD_W: word to binary64 (rule R182). -/
  | d2f (w : Word)
  /-- Op 0xB, format CMD_W: render a word as text (rule R190). -/
  | fmt (w : Word)
  /-- Op 0xC, format CMD_NONE: reserved (rule R64). -/
  | reservedC
  /-- Op 0xD, format CMD_NONE: reserved (rule R64). -/
  | reservedD
  /-- Op 0xE, format CMD_NONE: reserved (rule R64). -/
  | reservedE
  /-- Op 0xF, format CMD_NONE: reserved (rule R64). -/
  | reservedF
deriving DecidableEq, Repr

/-- The input ports of the command view: the op code of rule R62 and every operand port that a
format of rule R73 names, each once, at its width of rule R61. -/
structure Ports where
  /-- `op[3:0]`. -/
  op : OpBits
  /-- `sign`, read by ENCM and ENCD. -/
  sign : SignBit
  /-- `mant8[26:0]`, read by ENCM. -/
  mant8 : MantBits
  /-- `lead[3:0]`, read by ENCD. -/
  lead : LeadBits
  /-- `trail[23:0]`, read by ENCD. -/
  trail : TrailBits
  /-- `exp[7:0]`, read by ENCM and ENCD. -/
  exp : ExpBits
  /-- `w[31:0]`, read by DEC, D2F and FMT. -/
  w : Word
  /-- `x[31:0]`, read by SHIFT. -/
  x : ShiftData
  /-- `amt[7:0]`, read by SHIFT. -/
  amt : AmtBits
  /-- `a[31:0]`, read by ADD, SUB, NEG, MUL and DIV. -/
  a : Word
  /-- `b[31:0]`, read by ADD, SUB, MUL and DIV. -/
  b : Word
  /-- `f[63:0]`, read by F2D. -/
  f : Binary64
deriving DecidableEq, Repr

/-- Every input port at zero: the ports an encoder starts from. -/
def Ports.zero : Ports :=
  { op := 0, sign := 0, mant8 := 0, lead := 0, trail := 0, exp := 0, w := 0, x := 0, amt := 0,
    a := 0, b := 0, f := 0 }

end Sys2Proof
end

