-- ==== Sys2Proof/WellFormed.lean ====
section
/-! DEFINITION. Which terms of `Instr` are commands (rules R62, R64, R72), and which commands honour
the two caller obligations of rule R233. Operand widths need no check: the types of `Instr` carry
them. A term that either check refuses still has its meaning: the block defines an output for every
input (rules R64, R200 and R233). -/

namespace Sys2Proof

/-- The op code of rule R62 (rule R64 for the reserved rows). -/
def Instr.opcode : Instr → OpBits
  | .encm _ _ _ => 0x0
  | .encd _ _ _ _ => 0x1
  | .dec _ => 0x2
  | .shift _ _ => 0x3
  | .add _ _ => 0x4
  | .sub _ _ => 0x5
  | .neg _ => 0x6
  | .mul _ _ => 0x7
  | .div _ _ => 0x8
  | .f2d _ => 0x9
  | .d2f _ => 0xA
  | .fmt _ => 0xB
  | .reservedC => 0xC
  | .reservedD => 0xD
  | .reservedE => 0xE
  | .reservedF => 0xF

/-- "The twelve commands of rule R62 are the whole command set" (rule R72): true of them, false of
the four reserved op codes of rule R64. -/
def Instr.wellFormed (i : Instr) : Bool :=
  decide (i.opcode.toNat < 0xC)

/-- The encoder's domain of rule R104, on integers. -/
def inEncoderDomain (m : Nat) (e : Int) : Bool :=
  decide (m ≤ 99999999) && decide (-48 ≤ e) && decide (e ≤ 47)
    && (!(decide (-6 ≤ e) && decide (e ≤ 5)) || decide (10000000 ≤ m))

/-- The caller obligations of rule R233: the encoder's inputs lie in its domain (rules R104 and
R105), and a left shift's product fits in 32 bits (rule R122). -/
def Instr.honoursObligations : Instr → Bool
  | .encm _ mant8 exp => inEncoderDomain mant8.toNat exp.toInt
  | .encd _ lead trail exp =>
      decide (lead.toNat ≤ 9) && decide (trail.toNat ≤ 9999999)
        && inEncoderDomain (lead.toNat * 10 ^ 7 + trail.toNat) exp.toInt
  | .shift x amt => decide (amt.toInt < 0) || decide (x.toNat * 10 ^ amt.toInt.toNat < 2 ^ 32)
  | .dec _ => true
  | .add _ _ => true
  | .sub _ _ => true
  | .neg _ => true
  | .mul _ _ => true
  | .div _ _ => true
  | .f2d _ => true
  | .d2f _ => true
  | .fmt _ => true
  | .reservedC => true
  | .reservedD => true
  | .reservedE => true
  | .reservedF => true

end Sys2Proof
end

