-- ==== Sys2Proof/Decode.lean ====
section
/-! DEFINITION. The command decoder and encoder of spec/30_encoding.md (rules R62, R63, R64 and R73),
and the port image: the input ports written as one number, op code lowest, through which the host
names a command by its bits. Every op code decodes (rule R64 gives the reserved ones their own
behaviour), so the decoder rejects nothing. -/

namespace Sys2Proof

/-- The command the input ports carry. "A decoder selects the row of rule R62 by `op[3:0]` alone";
operands are taken as they are, and ports the command does not name are ignored (rules R63, R73). -/
def decode (p : Ports) : Instr :=
  match p.op.toNat with
  | 0x0 => .encm p.sign p.mant8 p.exp
  | 0x1 => .encd p.sign p.lead p.trail p.exp
  | 0x2 => .dec p.w
  | 0x3 => .shift p.x p.amt
  | 0x4 => .add p.a p.b
  | 0x5 => .sub p.a p.b
  | 0x6 => .neg p.a
  | 0x7 => .mul p.a p.b
  | 0x8 => .div p.a p.b
  | 0x9 => .f2d p.f
  | 0xA => .d2f p.w
  | 0xB => .fmt p.w
  | 0xC => .reservedC
  | 0xD => .reservedD
  | 0xE => .reservedE
  | _ => .reservedF -- 0xF, the one value of four bits left

/-- The ports a host drives to issue a command: its op code, its operands on the ports that rule R73
names, and 0 on the ports the command ignores. -/
def encode : Instr → Ports
  | .encm sign mant8 exp => { Ports.zero with op := 0x0, sign := sign, mant8 := mant8, exp := exp }
  | .encd sign lead trail exp =>
      { Ports.zero with op := 0x1, sign := sign, lead := lead, trail := trail, exp := exp }
  | .dec w => { Ports.zero with op := 0x2, w := w }
  | .shift x amt => { Ports.zero with op := 0x3, x := x, amt := amt }
  | .add a b => { Ports.zero with op := 0x4, a := a, b := b }
  | .sub a b => { Ports.zero with op := 0x5, a := a, b := b }
  | .neg a => { Ports.zero with op := 0x6, a := a }
  | .mul a b => { Ports.zero with op := 0x7, a := a, b := b }
  | .div a b => { Ports.zero with op := 0x8, a := a, b := b }
  | .f2d f => { Ports.zero with op := 0x9, f := f }
  | .d2f w => { Ports.zero with op := 0xA, w := w }
  | .fmt w => { Ports.zero with op := 0xB, w := w }
  | .reservedC => { Ports.zero with op := 0xC }
  | .reservedD => { Ports.zero with op := 0xD }
  | .reservedE => { Ports.zero with op := 0xE }
  | .reservedF => { Ports.zero with op := 0xF }

/-- The input ports as one bit vector: `op` in bits 3..0 as spec/opcode_table.json numbers them, the
operand ports above it in the order of `Ports`. DESIGN CHOICE, log entry 2: the spec gives the
operands ports and no places among an instruction's bits. -/
abbrev PortImage := BitVec 268

/-- The image of the input ports. -/
def packPorts (p : Ports) : PortImage :=
  p.f ++ p.b ++ p.a ++ p.amt ++ p.x ++ p.w ++ p.exp ++ p.trail ++ p.lead ++ p.mant8 ++ p.sign ++ p.op

/-- The ports an image stands for. -/
def unpackPorts (v : PortImage) : Ports where
  op := v.extractLsb' 0 4
  sign := v.extractLsb' 4 1
  mant8 := v.extractLsb' 5 27
  lead := v.extractLsb' 32 4
  trail := v.extractLsb' 36 24
  exp := v.extractLsb' 60 8
  w := v.extractLsb' 68 32
  x := v.extractLsb' 100 32
  amt := v.extractLsb' 132 8
  a := v.extractLsb' 140 32
  b := v.extractLsb' 172 32
  f := v.extractLsb' 204 64

/-- The command an image carries. -/
def decodeImage (v : PortImage) : Instr :=
  decode (unpackPorts v)

/-- The image of a command. -/
def encodeImage (i : Instr) : PortImage :=
  packPorts (encode i)

/-- The image whose lowest `nbits` bits are those of `w` and whose other bits are 0. -/
def imageOfTableWord (nbits w : Nat) : PortImage :=
  BitVec.ofNat 268 (w % 2 ^ nbits)

/-- The command the decoder reads from an instruction numbered as spec/opcode_table.json numbers its
bits, every bit above `nbits` being 0. -/
def decodeTableWord (nbits w : Nat) : Option Instr :=
  some (decodeImage (imageOfTableWord nbits w))

end Sys2Proof
end

