-- ==== Sys2Proof/Machine/Flags.lean ====
section
/-! DEFINITION. The command view's one status output. The block has no flags and keeps no record of
overflow, underflow, division by zero or inexactness (rules R20, R29, R200 and R202). -/

namespace Sys2Proof.Machine

/-- `illegal`: 1 for the reserved op codes 0xC to 0xF and 0 otherwise (rules R29, R62 and R64). -/
def illegalStrobe (op : OpBits) : Bool :=
  decide (0xC ≤ op.toNat)

end Sys2Proof.Machine
end

