-- ==== Sys2Proof/Machine/State.lean ====
section
/-! DEFINITION. The state of the model. The spec gives the block no register, program counter, flag,
memory or buffer (rules R20, R28, R30, R40 and R202); its only stored content, the three constant
tables of rule R25, never changes and stands in Machine/Tables.lean. What the model holds is what
stands on the command view's ports: the inputs the host presents, the results of the invocation, and
the `illegal` strobe (rules R29, R61 and R62). -/

namespace Sys2Proof.Machine

/-- What one invocation returns on the result ports. A command returns "the row's results" (rule R62)
and no other, so each constructor carries exactly the results of one kind of row. -/
inductive Results where
  /-- `w`, of ENCM, ENCD and F2D. -/
  | word (w : Word)
  /-- `sign`, `mant8` and `exp`, of DEC. -/
  | triple (sign : SignBit) (mant8 : MantBits) (exp : ExpBits)
  /-- `y`, of SHIFT. -/
  | shifted (y : ShiftData)
  /-- `r`, of ADD, SUB, NEG, MUL and DIV. -/
  | value (r : Word)
  /-- `f`, of D2F. -/
  | binary (f : Binary64)
  /-- `txt[0..14]`, of FMT, the first character at index 0 (rule R45). -/
  | text (txt : Vector Byte 15)
  /-- A reserved op code: "every result of the command view reads as all zeros" (rule R64). -/
  | zeros
deriving DecidableEq, Repr

/-- The machine: its ports. All three fields are the model's own, since the spec's machine state is
empty (rule R20). Log entries 1 and 3. -/
structure State where
  /-- What the host presents on the input ports. -/
  ins : Ports
  /-- The results of the last invocation (rule R62). -/
  out : Results
  /-- The strobe `illegal`, true for 1 (rules R29 and R64). -/
  illegal : Bool
deriving DecidableEq, Repr

/-- Why a step stops with a fault: there is no reason. "A model has no fault state for this block"
(rule R200), so the type has no constructor. -/
inductive Fault
deriving DecidableEq, Repr

/-- Why a step answers nothing. -/
inductive Refusal where
  /-- The instruction named has no meaning in the model. Raised by an arm of `exec` alone. Safe: the
  model stops where the block goes on. No arm raises it. -/
  | notModelled (mnemonic : String)
deriving DecidableEq, Repr

/-- The machine before any command is issued. The block has no reset input and no resettable state
(rules R30 and R230). The input ports stand at 0, log entry 1 (DESIGN CHOICE: they are the host's).
"Before any input is applied, an output's value is the unit's function of whatever its inputs hold"
(rule R230): op 0 with operands 0 is ENCM of the mantissa 0 at the exponent 0, whose word is the
canonical NaN 0x7FC00000 (rule R104), with `illegal` 0. -/
def State.reset : State where
  ins := Ports.zero
  out := .word 0x7FC00000#32
  illegal := false

end Sys2Proof.Machine
end

