-- ==== Sys2Proof/Machine/Ops.lean ====
section
/-! DEFINITION. The operations over the ports: driving the results of an invocation, presenting a
command, reading a result port, and laying a word out in bytes. There is no memory to read or write
(rule R40) and no exception to take or return from (rules R200, R205 and R206). -/

namespace Sys2Proof.Machine

/-- Drives the results of the invocation of op code `op`, and the strobe of that op code (rules R29
and R62). The input ports keep what the host presents. -/
def State.drive (s : State) (op : OpBits) (r : Results) : State :=
  { s with out := r, illegal := illegalStrobe op }

/-- The host's act of presenting a command on the input ports (rules R69 and R71). -/
def State.present (s : State) (i : Instr) : State :=
  { s with ins := encode i }

/-- The result port `w`; `none` where the command returns no such result. -/
def Results.w? : Results → Option Word
  | .word w => some w
  | .zeros => some 0
  | .triple _ _ _ => none
  | .shifted _ => none
  | .value _ => none
  | .binary _ => none
  | .text _ => none

/-- The result port `sign`; `none` where the command returns no such result. -/
def Results.sign? : Results → Option SignBit
  | .triple s _ _ => some s
  | .zeros => some 0
  | .word _ => none
  | .shifted _ => none
  | .value _ => none
  | .binary _ => none
  | .text _ => none

/-- The result port `mant8`; `none` where the command returns no such result. -/
def Results.mant8? : Results → Option MantBits
  | .triple _ m _ => some m
  | .zeros => some 0
  | .word _ => none
  | .shifted _ => none
  | .value _ => none
  | .binary _ => none
  | .text _ => none

/-- The result port `exp`; `none` where the command returns no such result. -/
def Results.exp? : Results → Option ExpBits
  | .triple _ _ e => some e
  | .zeros => some 0
  | .word _ => none
  | .shifted _ => none
  | .value _ => none
  | .binary _ => none
  | .text _ => none

/-- The result port `y`; `none` where the command returns no such result. -/
def Results.y? : Results → Option ShiftData
  | .shifted y => some y
  | .zeros => some 0
  | .word _ => none
  | .triple _ _ _ => none
  | .value _ => none
  | .binary _ => none
  | .text _ => none

/-- The result port `r`; `none` where the command returns no such result. -/
def Results.r? : Results → Option Word
  | .value r => some r
  | .zeros => some 0
  | .word _ => none
  | .triple _ _ _ => none
  | .shifted _ => none
  | .binary _ => none
  | .text _ => none

/-- The result port `f`; `none` where the command returns no such result. -/
def Results.f? : Results → Option Binary64
  | .binary f => some f
  | .zeros => some 0
  | .word _ => none
  | .triple _ _ _ => none
  | .shifted _ => none
  | .value _ => none
  | .text _ => none

/-- The result port `txt`; `none` where the command returns no such result. -/
def Results.txt? : Results → Option (Vector Byte 15)
  | .text t => some t
  | .zeros => some (Vector.replicate 15 0)
  | .word _ => none
  | .triple _ _ _ => none
  | .shifted _ => none
  | .value _ => none
  | .binary _ => none

/-- The four bytes a host stores for a word, the lowest address first, in the byte order given (rule
R43: "A model takes it as an argument wherever it serialises words"). -/
def wordToBytes (o : ByteOrder) (w : Word) : Vector Byte 4 :=
  match o with
  | .big => #v[w.extractLsb' 24 8, w.extractLsb' 16 8, w.extractLsb' 8 8, w.extractLsb' 0 8]
  | .little => #v[w.extractLsb' 0 8, w.extractLsb' 8 8, w.extractLsb' 16 8, w.extractLsb' 24 8]

/-- The word a host loads from four stored bytes (rule R43). -/
def wordOfBytes (o : ByteOrder) (v : Vector Byte 4) : Word :=
  match o with
  | .big => v[0] ++ v[1] ++ v[2] ++ v[3]
  | .little => v[3] ++ v[2] ++ v[1] ++ v[0]

/-- A word as this implementation's hosts store it, in the open order `WORD_BYTE_ORDER` (rule R43). -/
def storedWord (w : Word) : Vector Byte 4 :=
  wordToBytes Config.wordByteOrder w

end Sys2Proof.Machine
end

