-- ==== Sys2Proof/Machine/Codec.lean ====
section
/-! DEFINITION. The decoder and the encoder of spec/40_codec.md: DEC, ENCM and ENCD. -/

namespace Sys2Proof.Machine

/-- A decoded triple `(s, m, e)`, rules R13 and R26: the value `(-1)^s * m * 10^(e-7)`. -/
structure Triple where
  /-- The sign, 1 for negative. -/
  s : SignBit
  /-- The non-negative mantissa. -/
  m : Nat
  /-- The decimal exponent. -/
  e : Int
deriving DecidableEq, Repr

/-- `decode(w)`, rule R101: total on all words. -/
def decodeWord (w : Word) : Triple :=
  let E := expField w
  let F := mantField w
  match regionOf E with
  | .a =>
      let z := E - 14
      let b := z % 3
      { s := signOf w, m := F + (1 + 3 * b) * 10 ^ 7, e := (z / 3 : Nat) - 6 }
  | .bLow => { s := signOf w, m := 10 * (F % 10 ^ 7), e := 3 * ((E : Int) - 16) + (F / 10 ^ 7 : Nat) }
  | .bHigh => { s := signOf w, m := 10 * (F % 10 ^ 7), e := 3 * ((E : Int) - 48) + (F / 10 ^ 7 : Nat) }

/-- `encode(s, m, e)`, rule R103, with the out-of-domain results of rule R104. -/
def encodeTriple (s : SignBit) (m : Nat) (e : Int) : Word :=
  if 99999999 < m ∨ e < -48 ∨ 47 < e then qnanWord s
  else if -6 ≤ e ∧ e ≤ 5 then
    let L := m / 10 ^ 7
    if L = 0 then qnanWord s
    else
      let b := (L - 1) / 3
      mkWord s (14 + 3 * (e + 6).toNat + b) (m - (1 + 3 * b) * 10 ^ 7)
  else
    let c : Int := if e ≤ -7 then 16 else 48
    mkWord s (c + e / 3).toNat ((e % 3).toNat * 10 ^ 7 + m / 10)

/-- ENCM, rule R103: the operands read from their ports. -/
def encmWord (sign : SignBit) (mant8 : MantBits) (exp : ExpBits) : Word :=
  encodeTriple sign mant8.toNat (signed exp)

/-- ENCD, rule R105: a leading digit above 9 or trailing digits above 9,999,999 give the canonical
NaN, and the rest is ENCM of `L * 10^7 + T`. -/
def encdWord (sign : SignBit) (lead : LeadBits) (trail : TrailBits) (exp : ExpBits) : Word :=
  if 9 < lead.toNat ∨ 9999999 < trail.toNat then qnanWord sign
  else encodeTriple sign (lead.toNat * 10 ^ 7 + trail.toNat) (signed exp)

/-- The unit decimal_fp_encoder on its ports, rule R61: `sel = 0` is the mantissa form and ignores
`lead` and `trail`, `sel = 1` is the digits form and ignores `mant8`. -/
def encoderUnit (sel : BitVec 1) (sign : SignBit) (mant8 : MantBits) (lead : LeadBits)
    (trail : TrailBits) (exp : ExpBits) : Word :=
  if sel = 0#1 then encmWord sign mant8 exp else encdWord sign lead trail exp

/-- The unit decimal_fp_decoder on its ports, rule R61: `sign`, `mant8` and `exp`. -/
def decoderUnit (w : Word) : SignBit × MantBits × ExpBits :=
  let t := decodeWord w
  (t.s, BitVec.ofNat 27 t.m, toExpBits t.e)

/-- DEC, op 0x2 (rule R101). -/
def execDec (w : Word) (s : State) : Host.Outcome State Fault Refusal :=
  let t := decoderUnit w
  .next (s.drive 0x2#4 (.triple t.1 t.2.1 t.2.2))

/-- ENCM, op 0x0 (rule R103): the encoder with `sel = 0`, which ignores `lead` and `trail`. -/
def execEncm (sign : SignBit) (mant8 : MantBits) (exp : ExpBits) (s : State) :
    Host.Outcome State Fault Refusal :=
  .next (s.drive 0x0#4 (.word (encoderUnit 0#1 sign mant8 0 0 exp)))

/-- ENCD, op 0x1 (rule R105): the encoder with `sel = 1`, which ignores `mant8`. -/
def execEncd (sign : SignBit) (lead : LeadBits) (trail : TrailBits) (exp : ExpBits) (s : State) :
    Host.Outcome State Fault Refusal :=
  .next (s.drive 0x1#4 (.word (encoderUnit 1#1 sign 0 lead trail exp)))

end Sys2Proof.Machine
end

