-- ==== Sys2Proof/Machine/Finalize.lean ====
section
/-! DEFINITION. The result finalisation that ADD, SUB, MUL, DIV and F2D share (rule R131). Each loop
of the rule recurses on a bound on its own passes; `Laws/Finalize.lean` shows that each ends where its
condition does. -/

namespace Sys2Proof.Machine

/-- The first loop of rule R131, at most `n` passes: while `m` exceeds 8 digits, `m` is divided by 10
with truncation and `e` rises by one. -/
def shrinkLoop : Nat → Nat → Int → Nat × Int
  | 0, m, e => (m, e)
  | n + 1, m, e => if 99999999 < m then shrinkLoop n (m / 10) (e + 1) else (m, e)

/-- The second loop of rule R131, at most `n` passes: while `m` has fewer than 8 digits and `e` is
above the floor, `m` is multiplied by 10 and `e` falls by one. -/
def growLoop : Nat → Nat → Int → Nat × Int
  | 0, m, e => (m, e)
  | n + 1, m, e => if m < 10000000 ∧ -48 < e then growLoop n (m * 10) (e - 1) else (m, e)

/-- The third loop of rule R131, at most `n` passes: while `e` is below the floor, `m` is divided by
10 with truncation and `e` rises by one. -/
def denormLoop : Nat → Nat → Int → Nat × Int
  | 0, m, e => (m, e)
  | n + 1, m, e => if e < -48 then denormLoop n (m / 10) (e + 1) else (m, e)

/-- The three loops of rule R131 in order. Shrinking ends within `m` passes, growing within `e + 48`
and denormalising within `-48 - e`. -/
def runLoops (m : Nat) (e : Int) : Nat × Int :=
  let p := shrinkLoop m m e
  let q := growLoop (p.2 + 48).toNat p.1 p.2
  denormLoop (-48 - q.2).toNat q.1 q.2

/-- The overflow test of rule R131, one for every unit (decision D13). -/
def overflows (m : Nat) (e : Int) : Bool :=
  decide (47 < e) || (decide (e = 47) && decide (50000000 < m))

/-- `finalize(s, m, e)`, rule R131. -/
def finalize (s : SignBit) (m : Nat) (e : Int) : Word :=
  let p := runLoops m e
  if overflows p.1 p.2 then infWord s else encodeTriple s p.1 p.2

end Sys2Proof.Machine
end

