-- ==== Sys2Proof/Machine/Shifter.lean ====
section
/-! DEFINITION. The precision shifter of spec/41_shifter.md: SHIFT. -/

namespace Sys2Proof.Machine

/-- The shifter's function, rule R120: a right shift truncates (rule R121) and loses every digit
below -8; a left shift keeps the low 32 bits of the exact product (rule R122). -/
def shiftMagnitude (x : Nat) (k : Int) : Nat :=
  if k < 0 then
    if k < -8 ∨ x = 0 then 0 else x / 10 ^ (-k).toNat
  else x * 10 ^ k.toNat % 2 ^ 32

/-- The unit decimal_precision_shifter on its ports, rule R61. -/
def shifterUnit (x : ShiftData) (amt : AmtBits) : ShiftData :=
  BitVec.ofNat 32 (shiftMagnitude x.toNat (signed amt))

/-- SHIFT, op 0x3 (rule R120). -/
def execShift (x : ShiftData) (amt : AmtBits) (s : State) : Host.Outcome State Fault Refusal :=
  .next (s.drive 0x3#4 (.shifted (shifterUnit x amt)))

end Sys2Proof.Machine
end

