-- ==== Sys2Proof/Machine/Adder.lean ====
section
/-! DEFINITION. The adder of spec/42_add.md: ADD, SUB and NEG. Operand words are used as their decoded
triples, Infinity, NaN and invalid words included (rules R130 and R136). -/

namespace Sys2Proof.Machine

/-- `magdiff` of rule R132: the absolute difference, with the sign of the larger magnitude; a tie
gives `(0, 0)`. The result is the magnitude and the sign. -/
def magdiff (sx : SignBit) (mx : Nat) (sy : SignBit) (my : Nat) : Nat × SignBit :=
  if my < mx then (mx - my, sx)
  else if mx < my then (my - mx, sy)
  else (0, 0#1)

/-- Adds magnitudes of equal signs and takes `magdiff` of differing ones, rule R132. -/
def combine (s1 : SignBit) (m1 : Nat) (s2 : SignBit) (m2 : Nat) : Nat × SignBit :=
  if s1 = s2 then (m1 + m2, s1) else magdiff s1 m1 s2 m2

/-- The branch of rule R132 for differing exponents, `t1` having the larger: a guard digit where the
signs differ (decision D7), then `t2`'s mantissa aligned down by the shifter (rule R123). -/
def addAligned (t1 t2 : Triple) : Word :=
  let m1 := if t1.s = t2.s then t1.m else t1.m * 10
  let e1 := if t1.s = t2.s then t1.e else t1.e - 1
  let m2 := shiftMagnitude t2.m (-(e1 - t2.e))
  let p := combine t1.s m1 t2.s m2
  finalize p.2 p.1 e1

/-- ADD, rule R132. -/
def addWord (a b : Word) : Word :=
  let ta := decodeWord a
  let tb := decodeWord b
  if ta.e = tb.e then
    let p := combine ta.s ta.m tb.s tb.m
    finalize p.2 p.1 ta.e
  else if tb.e < ta.e then addAligned ta tb
  else addAligned tb ta

/-- NEG, rule R133: `{~a[31], a[30:0]}`. -/
def negWord (a : Word) : Word :=
  ~~~ signOf a ++ magnitude a

/-- SUB, rule R134: `ADD(a, NEG(b))`. -/
def subWord (a b : Word) : Word :=
  addWord a (negWord b)

/-- The unit decimal_fp_adder on its ports, rule R61: mode 00 is ADD, 01 SUB, 10 NEG (which ignores
`b`), and the reserved mode 11 drives `r = 0` (rule R64). -/
def adderUnit (mode : BitVec 2) (a b : Word) : Word :=
  if mode = 0b00#2 then addWord a b
  else if mode = 0b01#2 then subWord a b
  else if mode = 0b10#2 then negWord a
  else 0

/-- ADD, op 0x4 (rule R132): the adder in mode 00. -/
def execAdd (a b : Word) (s : State) : Host.Outcome State Fault Refusal :=
  .next (s.drive 0x4#4 (.value (adderUnit 0b00#2 a b)))

/-- SUB, op 0x5 (rule R134): the adder in mode 01. -/
def execSub (a b : Word) (s : State) : Host.Outcome State Fault Refusal :=
  .next (s.drive 0x5#4 (.value (adderUnit 0b01#2 a b)))

/-- NEG, op 0x6 (rule R133): the adder in mode 10, which ignores `b`. -/
def execNeg (a : Word) (s : State) : Host.Outcome State Fault Refusal :=
  .next (s.drive 0x6#4 (.value (adderUnit 0b10#2 a 0)))

end Sys2Proof.Machine
end

