-- ==== Sys2Proof/Machine/Binary64.lean ====
section
/-! DEFINITION. The IEEE 754 binary64 format of rule R170 and the multiplication `fp64_mul` of rule R12:
round to nearest, ties to even. PRESUMED, log entry 5: the spec marks both as general knowledge. -/

namespace Sys2Proof.Machine

/-- `f[63]`, rule R170. -/
def f64Sign (f : Binary64) : SignBit :=
  f.extractLsb' 63 1

/-- The biased exponent `be = f[62:52]`, rule R170. -/
def f64Exp (f : Binary64) : Nat :=
  (f.extractLsb' 52 11).toNat

/-- The fraction `frac = f[51:0]`, rule R170. -/
def f64Frac (f : Binary64) : Nat :=
  (f.extractLsb' 0 52).toNat

/-- The classes of rule R170. -/
inductive F64Class where
  /-- `be = 2047`, `frac != 0`. -/
  | nan
  /-- `be = 2047`, `frac = 0`. -/
  | infinity
  /-- `be = 0`: a zero or a subnormal. -/
  | tiny
  /-- Every other value. -/
  | normal
deriving DecidableEq, Repr

/-- The class of a binary64 value, rule R170. -/
def f64Class (f : Binary64) : F64Class :=
  if f64Exp f = 2047 then if f64Frac f = 0 then .infinity else .nan
  else if f64Exp f = 0 then .tiny
  else .normal

/-- The significand of a finite value: the implicit 1 restored where the value is normal. -/
def f64Significand (f : Binary64) : Nat :=
  if f64Exp f = 0 then f64Frac f else 2 ^ 52 + f64Frac f

/-- The weight of the significand's unit: a finite value is
`(-1)^f[63] * f64Significand f * 2^(f64Scale f)`. -/
def f64Scale (f : Binary64) : Int :=
  if f64Exp f = 0 then -1074 else (f64Exp f : Int) - 1075

/-- `n / 2^k` rounded to the nearest integer, ties to even. -/
def roundHalfEven (n k : Nat) : Nat :=
  let q := n / 2 ^ k
  let r := n % 2 ^ k
  if 2 ^ k < 2 * r ∨ (2 * r = 2 ^ k ∧ q % 2 = 1) then q + 1 else q

/-- The binary64 value nearest to `(-1)^s * n * 2^q`, ties to even. `u` is the weight of the unit in
the last place before rounding; the sum carries into the exponent where rounding fills the
significand, and what reaches the exponent 2047 is an Infinity. -/
def roundBinary64 (s : SignBit) (n : Nat) (q : Int) : Binary64 :=
  if n = 0 then s ++ 0#63
  else
    let u : Int := max (q + (Nat.log2 n : Nat) - 52) (-1074)
    let sig := if u ≤ q then n * 2 ^ (q - u).toNat else roundHalfEven n (u - q).toNat
    let bits := (u + 1074).toNat * 2 ^ 52 + sig
    if 2047 * 2 ^ 52 ≤ bits then s ++ BitVec.ofNat 63 (2047 * 2 ^ 52)
    else s ++ BitVec.ofNat 63 bits

/-- `fp64_mul(x, y)` of rule R12: the exact product of two finite values, rounded once. -/
def fp64Mul (x y : Binary64) : Binary64 :=
  if f64Exp x = 2047 ∨ f64Exp y = 2047 then Config.nonFiniteProduct x y
  else
    roundBinary64 (f64Sign x ^^^ f64Sign y) (f64Significand x * f64Significand y)
      (f64Scale x + f64Scale y)

/-- `binary64((-1)^s * m)` of rule R182, exact for `m < 2^53`; -0.0 for `s = 1`, `m = 0`. -/
def f64OfSigned (s : SignBit) (m : Nat) : Binary64 :=
  roundBinary64 s m 0

/-- The binary64 quiet NaN of rule R183, with the sign given. -/
def f64QuietNaN (s : SignBit) : Binary64 :=
  s ++ (0x7FF8000000000000#64).extractLsb' 0 63

end Sys2Proof.Machine
end

