-- ==== Sys2Proof/Machine/Tables.lean ====
section
/-! DEFINITION. The three constant tables of rule R25, as rules R184 and R185 of spec/44_bridge.md list
them. They hold their contents from power-on and nothing writes them (rules R27 and R230). -/

namespace Sys2Proof.Machine

/-- Rule R184, x = -179..-140: `ROM_POW2[x]` and `ROM_POW2EXP[x]`. -/
def pow2Rows0 : List (Nat × Int) :=
  [
    (311150764, -61), (622301528, -61), (124460306, -60), (248920611, -60), (497841222, -60),
    (995682444, -60), (199136489, -59), (398272978, -59), (796545956, -59), (159309191, -58),
    (318618382, -58), (637236764, -58), (127447353, -57), (254894706, -57), (509789412, -57),
    (101957882, -56), (203915765, -56), (407831529, -56), (815663058, -56), (163132612, -55),
    (326265223, -55), (652530447, -55), (130506089, -54), (261012179, -54), (522024357, -54),
    (104404871, -53), (208809743, -53), (417619486, -53), (835238972, -53), (167047794, -52),
    (334095589, -52), (668191178, -52), (133638236, -51), (267276471, -51), (534552942, -51),
    (106910588, -50), (213821177, -50), (427642354, -50), (855284707, -50), (171056941, -49)]

/-- Rule R184, x = -139..-100: `ROM_POW2[x]` and `ROM_POW2EXP[x]`. -/
def pow2Rows1 : List (Nat × Int) :=
  [
    (342113883, -49), (684227766, -49), (136845553, -48), (273691106, -48), (547382213, -48),
    (109476443, -47), (218952885, -47), (437905770, -47), (875811540, -47), (175162308, -46),
    (350324616, -46), (700649232, -46), (140129846, -45), (280259693, -45), (560519386, -45),
    (112103877, -44), (224207754, -44), (448415509, -44), (896831017, -44), (179366203, -43),
    (358732407, -43), (717464814, -43), (143492963, -42), (286985925, -42), (573971851, -42),
    (114794370, -41), (229588740, -41), (459177481, -41), (918354962, -41), (183670992, -40),
    (367341985, -40), (734683969, -40), (146936794, -39), (293873588, -39), (587747175, -39),
    (117549435, -38), (235098870, -38), (470197740, -38), (940395481, -38), (188079096, -37)]

/-- Rule R184, x = -99..-60: `ROM_POW2[x]` and `ROM_POW2EXP[x]`. -/
def pow2Rows2 : List (Nat × Int) :=
  [
    (376158192, -37), (752316385, -37), (150463277, -36), (300926554, -36), (601853108, -36),
    (120370622, -35), (240741243, -35), (481482486, -35), (962964972, -35), (192592994, -34),
    (385185989, -34), (770371978, -34), (154074396, -33), (308148791, -33), (616297582, -33),
    (123259516, -32), (246519033, -32), (493038066, -32), (986076132, -32), (197215226, -31),
    (394430453, -31), (788860905, -31), (157772181, -30), (315544362, -30), (631088724, -30),
    (126217745, -29), (252435490, -29), (504870979, -29), (100974196, -28), (201948392, -28),
    (403896783, -28), (807793567, -28), (161558713, -27), (323117427, -27), (646234854, -27),
    (129246971, -26), (258493941, -26), (516987883, -26), (103397577, -25), (206795153, -25)]

/-- Rule R184, x = -59..-20: `ROM_POW2[x]` and `ROM_POW2EXP[x]`. -/
def pow2Rows3 : List (Nat × Int) :=
  [
    (413590306, -25), (827180613, -25), (165436123, -24), (330872245, -24), (661744490, -24),
    (132348898, -23), (264697796, -23), (529395592, -23), (105879118, -22), (211758237, -22),
    (423516474, -22), (847032947, -22), (169406589, -21), (338813179, -21), (677626358, -21),
    (135525272, -20), (271050543, -20), (542101086, -20), (108420217, -19), (216840434, -19),
    (433680869, -19), (867361738, -19), (173472348, -18), (346944695, -18), (693889390, -18),
    (138777878, -17), (277555756, -17), (555111512, -17), (111022302, -16), (222044605, -16),
    (444089210, -16), (888178420, -16), (177635684, -15), (355271368, -15), (710542736, -15),
    (142108547, -14), (284217094, -14), (568434189, -14), (113686838, -13), (227373675, -13)]

/-- Rule R184, x = -19..20: `ROM_POW2[x]` and `ROM_POW2EXP[x]`. -/
def pow2Rows4 : List (Nat × Int) :=
  [
    (454747351, -13), (909494702, -13), (181898940, -12), (363797881, -12), (727595761, -12),
    (145519152, -11), (291038305, -11), (582076609, -11), (116415322, -10), (232830644, -10),
    (465661287, -10), (931322575, -10), (186264515, -9), (372529030, -9), (745058060, -9),
    (149011612, -8), (298023224, -8), (596046448, -8), (119209290, -7), (238418579, -7),
    (476837158, -7), (953674316, -7), (190734863, -6), (381469727, -6), (762939453, -6),
    (152587891, -5), (305175781, -5), (610351563, -5), (122070313, -4), (244140625, -4),
    (488281250, -4), (976562500, -4), (195312500, -3), (390625000, -3), (781250000, -3),
    (156250000, -2), (312500000, -2), (625000000, -2), (125000000, -1), (250000000, -1)]

/-- Rule R184, x = 21..60: `ROM_POW2[x]` and `ROM_POW2EXP[x]`. -/
def pow2Rows5 : List (Nat × Int) :=
  [
    (500000000, -1), (100000000, 0), (200000000, 0), (400000000, 0), (800000000, 0),
    (160000000, 1), (320000000, 1), (640000000, 1), (128000000, 2), (256000000, 2),
    (512000000, 2), (102400000, 3), (204800000, 3), (409600000, 3), (819200000, 3),
    (163840000, 4), (327680000, 4), (655360000, 4), (131072000, 5), (262144000, 5),
    (524288000, 5), (104857600, 6), (209715200, 6), (419430400, 6), (838860800, 6),
    (167772160, 7), (335544320, 7), (671088640, 7), (134217728, 8), (268435456, 8),
    (536870912, 8), (107374182, 9), (214748365, 9), (429496730, 9), (858993459, 9),
    (171798692, 10), (343597384, 10), (687194767, 10), (137438953, 11), (274877907, 11)]

/-- Rule R184, x = 61..100: `ROM_POW2[x]` and `ROM_POW2EXP[x]`. -/
def pow2Rows6 : List (Nat × Int) :=
  [
    (549755814, 11), (109951163, 12), (219902326, 12), (439804651, 12), (879609302, 12),
    (175921860, 13), (351843721, 13), (703687442, 13), (140737488, 14), (281474977, 14),
    (562949953, 14), (112589991, 15), (225179981, 15), (450359963, 15), (900719925, 15),
    (180143985, 16), (360287970, 16), (720575940, 16), (144115188, 17), (288230376, 17),
    (576460752, 17), (115292150, 18), (230584301, 18), (461168602, 18), (922337204, 18),
    (184467441, 19), (368934881, 19), (737869763, 19), (147573953, 20), (295147905, 20),
    (590295810, 20), (118059162, 21), (236118324, 21), (472236648, 21), (944473297, 21),
    (188894659, 22), (377789319, 22), (755578637, 22), (151115727, 23), (302231455, 23)]

/-- Rule R184, x = 101..140: `ROM_POW2[x]` and `ROM_POW2EXP[x]`. -/
def pow2Rows7 : List (Nat × Int) :=
  [
    (604462910, 23), (120892582, 24), (241785164, 24), (483570328, 24), (967140656, 24),
    (193428131, 25), (386856262, 25), (773712525, 25), (154742505, 26), (309485010, 26),
    (618970020, 26), (123794004, 27), (247588008, 27), (495176016, 27), (990352031, 27),
    (198070406, 28), (396140813, 28), (792281625, 28), (158456325, 29), (316912650, 29),
    (633825300, 29), (126765060, 30), (253530120, 30), (507060240, 30), (101412048, 31),
    (202824096, 31), (405648192, 31), (811296384, 31), (162259277, 32), (324518554, 32),
    (649037107, 32), (129807421, 33), (259614843, 33), (519229686, 33), (103845937, 34),
    (207691874, 34), (415383749, 34), (830767497, 34), (166153499, 35), (332306999, 35)]

/-- Rule R184, x = 141..159: `ROM_POW2[x]` and `ROM_POW2EXP[x]`. -/
def pow2Rows8 : List (Nat × Int) :=
  [
    (664613998, 35), (132922800, 36), (265845599, 36), (531691198, 36), (106338240, 37),
    (212676479, 37), (425352959, 37), (850705917, 37), (170141183, 38), (340282367, 38),
    (680564734, 38), (136112947, 39), (272225894, 39), (544451787, 39), (108890357, 40),
    (217780715, 40), (435561430, 40), (871122859, 40), (174224572, 41)]

/-- Rule R184, the rows in the order of x = -179..159 (339 entries). -/
def pow2Rows : List (Nat × Int) :=
  pow2Rows0 ++ pow2Rows1 ++ pow2Rows2 ++ pow2Rows3 ++ pow2Rows4 ++ pow2Rows5 ++ pow2Rows6 ++ pow2Rows7 ++ pow2Rows8

/-- Rule R185, e = -54..-21: the bits of `ROM_POW10[e]`. -/
def pow10Rows0 : List Binary64 :=
  [
    0x34B8851A0B548EA4, 0x34EEA6608E29B24D, 0x352327FC58DA0F70, 0x3557F1FB6F10934C,
    0x358DEE7A4AD4B81F, 0x35C2B50C6EC4F313, 0x35F7624F8A762FD8, 0x362D3AE36D13BBCE,
    0x366244CE242C5561, 0x3696D601AD376AB9, 0x36CC8B8218854567, 0x3701D7314F534B61,
    0x37364CFDA3281E39, 0x376BE03D0BF225C7, 0x37A16C262777579C, 0x37D5C72FB1552D83,
    0x380B38FB9DAA78E4, 0x3841039D428A8B8F, 0x38754484932D2E72, 0x38AA95A5B7F87A0F,
    0x38E09D8792FB4C49, 0x3914C4E977BA1F5C, 0x3949F623D5A8A733, 0x398039D665896880,
    0x39B4484BFEEBC2A0, 0x39E95A5EFEA6B347, 0x3A1FB0F6BE506019, 0x3A53CE9A36F23C10,
    0x3A88C240C4AECB14, 0x3ABEF2D0F5DA7DD9, 0x3AF357C299A88EA7, 0x3B282DB34012B251,
    0x3B5E392010175EE6, 0x3B92E3B40A0E9B4F]

/-- Rule R185, e = -20..13: the bits of `ROM_POW10[e]`. -/
def pow10Rows1 : List Binary64 :=
  [
    0x3BC79CA10C924223, 0x3BFD83C94FB6D2AC, 0x3C32725DD1D243AC, 0x3C670EF54646D497,
    0x3C9CD2B297D889BC, 0x3CD203AF9EE75616, 0x3D06849B86A12B9B, 0x3D3C25C268497682,
    0x3D719799812DEA11, 0x3DA5FD7FE1796495, 0x3DDB7CDFD9D7BDBB, 0x3E112E0BE826D695,
    0x3E45798EE2308C3A, 0x3E7AD7F29ABCAF48, 0x3EB0C6F7A0B5ED8D, 0x3EE4F8B588E368F1,
    0x3F1A36E2EB1C432D, 0x3F50624DD2F1A9FC, 0x3F847AE147AE147B, 0x3FB999999999999A,
    0x3FF0000000000000, 0x4024000000000000, 0x4059000000000000, 0x408F400000000000,
    0x40C3880000000000, 0x40F86A0000000000, 0x412E848000000000, 0x416312D000000000,
    0x4197D78400000000, 0x41CDCD6500000000, 0x4202A05F20000000, 0x42374876E8000000,
    0x426D1A94A2000000, 0x42A2309CE5400000]

/-- Rule R185, e = 14..47: the bits of `ROM_POW10[e]`. -/
def pow10Rows2 : List Binary64 :=
  [
    0x42D6BCC41E900000, 0x430C6BF526340000, 0x4341C37937E08000, 0x4376345785D8A000,
    0x43ABC16D674EC800, 0x43E158E460913D00, 0x4415AF1D78B58C40, 0x444B1AE4D6E2EF50,
    0x4480F0CF064DD592, 0x44B52D02C7E14AF6, 0x44EA784379D99DB4, 0x45208B2A2C280291,
    0x4554ADF4B7320335, 0x4589D971E4FE8402, 0x45C027E72F1F1281, 0x45F431E0FAE6D721,
    0x46293E5939A08CEA, 0x465F8DEF8808B024, 0x4693B8B5B5056E17, 0x46C8A6E32246C99C,
    0x46FED09BEAD87C03, 0x4733426172C74D82, 0x476812F9CF7920E3, 0x479E17B84357691B,
    0x47D2CED32A16A1B1, 0x48078287F49C4A1D, 0x483D6329F1C35CA5, 0x48725DFA371A19E7,
    0x48A6F578C4E0A061, 0x48DCB2D6F618C879, 0x4911EFC659CF7D4C, 0x49466BB7F0435C9E,
    0x497C06A5EC5433C6, 0x49B18427B3B4A05C]

/-- Rule R185, the entries in the order of e = -54..47 (102 entries). -/
def pow10Rows : List Binary64 :=
  pow10Rows0 ++ pow10Rows1 ++ pow10Rows2

/-- `XMIN` of rule R7: the least binary exponent the power-of-two tables serve. -/
def xmin : Int := -179

/-- `XMAX` of rule R7: the greatest binary exponent the power-of-two tables serve. -/
def xmax : Int := 159

/-- The least index of `ROM_POW10`, rule R25. -/
def pow10Min : Int := -54

/-- The greatest index of `ROM_POW10`, rule R25. -/
def pow10Max : Int := 47

/-- The row of the power-of-two tables at `x`. "An index outside its range is never presented" (rule
R41); the pair (0, 0) is then unused. -/
def pow2Row (x : Int) : Nat × Int :=
  pow2Rows.getD (x - xmin).toNat (0, 0)

/-- `ROM_POW2[x]`, rules R25 and R171: the 9-digit significand of `2^(x-22)`. -/
def romPow2 (x : Int) : Nat :=
  (pow2Row x).1

/-- `ROM_POW2EXP[x]`, rules R25 and R172: the base-10 exponent of `2^(x-22)`. -/
def romPow2Exp (x : Int) : Int :=
  (pow2Row x).2

/-- `ROM_POW10[e]`, rules R25 and R181: the binary64 value nearest to `10^e`. An index outside its
range is never presented (rule R41). -/
def romPow10 (e : Int) : Binary64 :=
  pow10Rows.getD (e - pow10Min).toNat 0

end Sys2Proof.Machine
end

