-- ==== Sys2Proof/Machine/Bridge.lean ====
section
/-! DEFINITION. The binary-float bridge of spec/44_bridge.md: F2D and D2F. -/

namespace Sys2Proof.Machine

/-- The unbiased binary exponent `x = be - 1023`, rule R170. -/
def f64Unbiased (f : Binary64) : Int :=
  (f64Exp f : Int) - 1023

/-- The rescaled significand `m7 = sig div 2^30` of a normal value, rule R173. -/
def f2dRescaled (f : Binary64) : Nat :=
  (2 ^ 52 + f64Frac f) / 2 ^ 30

/-- The magnitude `m = (m7 * P + 5,000,000) div 10^7`, rule R173. -/
def f2dMagnitude (f : Binary64) : Nat :=
  (f2dRescaled f * romPow2 (f64Unbiased f) + 5000000) / 10 ^ 7

/-- Whether the tables serve the value: a normal number with x in -179..159 (rule R173). -/
def f2dInRange (f : Binary64) : Bool :=
  decide (f64Class f = .normal) && decide (xmin ≤ f64Unbiased f) && decide (f64Unbiased f ≤ xmax)

/-- `fallback(f)`, rule R174, whose table "is the whole behaviour": the signed zero for `be = 0` and
for magnitudes below the range, the signed Infinity for an Infinity and for magnitudes above it. -/
def f2dFallback (f : Binary64) : Word :=
  if f64Exp f = 2047 then infWord (f64Sign f)
  else if f64Exp f = 0 then zeroWord (f64Sign f)
  else if xmax < f64Unbiased f then infWord (f64Sign f)
  else zeroWord (f64Sign f)

/-- F2D, rule R173, with the NaN result of rule R175. -/
def f2dWord (f : Binary64) : Word :=
  if f64Class f = .nan then qnanWord (f64Sign f)
  else if f2dInRange f then
    finalize (f64Sign f) (f2dMagnitude f) (romPow2Exp (f64Unbiased f) + 6)
  else f2dFallback f

/-- `SCALE` of rule R182: the binary64 value nearest to `10^-7`. -/
def d2fScale : Binary64 :=
  0x3E7AD7F29ABCAF48#64

/-- D2F, rule R182: two rounded products, left to right; a decoded exponent outside the table gives
the quiet NaN of rule R183. -/
def d2fBits (w : Word) : Binary64 :=
  let t := decodeWord w
  if t.e < pow10Min ∨ pow10Max < t.e then f64QuietNaN t.s
  else fp64Mul (fp64Mul (f64OfSigned t.s t.m) (romPow10 t.e)) d2fScale

/-- The unit binary_to_decimal_fp_converter on its ports, rule R61. -/
def binaryToDecimalUnit (f : Binary64) : Word :=
  f2dWord f

/-- The unit decimal_fp_to_binary_converter on its ports, rule R61. -/
def decimalToBinaryUnit (w : Word) : Binary64 :=
  d2fBits w

/-- F2D, op 0x9 (rule R173). -/
def execF2d (f : Binary64) (s : State) : Host.Outcome State Fault Refusal :=
  .next (s.drive 0x9#4 (.word (binaryToDecimalUnit f)))

/-- D2F, op 0xA (rule R182). -/
def execD2f (w : Word) (s : State) : Host.Outcome State Fault Refusal :=
  .next (s.drive 0xA#4 (.binary (decimalToBinaryUnit w)))

end Sys2Proof.Machine
end

