-- ==== Sys2Proof/Machine/MulDiv.lean ====
section
/-! DEFINITION. The multiplier and the divider of spec/43_muldiv.md: MUL and DIV. Special operand words
are used as their decoded triples (rules R130 and R155). -/

namespace Sys2Proof.Machine

/-- MUL, rule R150: the exponent pre-check (decision D28), then the truncated product. -/
def mulWord (a b : Word) : Word :=
  let ta := decodeWord a
  let tb := decodeWord b
  let s := ta.s ^^^ tb.s
  let e := ta.e + tb.e
  if e < -48 then zeroWord s
  else if 47 < e then infWord s
  else finalize s (ta.m * tb.m / 10 ^ 7) e

/-- DIV, rule R152: a zero divisor mantissa gives Infinity and is tested first (rule R153). -/
def divWord (a b : Word) : Word :=
  let ta := decodeWord a
  let tb := decodeWord b
  let s := ta.s ^^^ tb.s
  if tb.m = 0 then infWord s
  else finalize s (ta.m * 10 ^ 7 / tb.m) (ta.e - tb.e)

/-- The unit decimal_fp_multiplier (alias decimal_fp_mult, rule R2) on its ports, rule R61. -/
def multiplierUnit (a b : Word) : Word :=
  mulWord a b

/-- The unit decimal_fp_divider on its ports, rule R61. -/
def dividerUnit (a b : Word) : Word :=
  divWord a b

/-- MUL, op 0x7 (rule R150). -/
def execMul (a b : Word) (s : State) : Host.Outcome State Fault Refusal :=
  .next (s.drive 0x7#4 (.value (multiplierUnit a b)))

/-- DIV, op 0x8 (rule R152). -/
def execDiv (a b : Word) (s : State) : Host.Outcome State Fault Refusal :=
  .next (s.drive 0x8#4 (.value (dividerUnit a b)))

end Sys2Proof.Machine
end

