-- ==== Sys2Proof/Machine/Renderer.lean ====
section
/-! DEFINITION. The text renderer of spec/45_render.md: FMT, and the classes of words that its checks
define (rules R15, R23 and R190). It is the only unit that classifies words (rule R67). -/

namespace Sys2Proof.Machine

/-- What the checks of rule R190 find a word to be. -/
inductive WordClass where
  /-- Check 1: the Infinity pattern of either sign (rule R22). -/
  | infinity
  /-- Checks 2 to 4: a NaN word (rule R23). -/
  | nan
  /-- No check matches: a valid word (rule R15). -/
  | valid
deriving DecidableEq, Repr

/-- The checks of rule R190, in order. Check 4 tests Region B by `E` (decision D23). -/
def classify (w : Word) : WordClass :=
  let E := expField w
  let F := mantField w
  let t := decodeWord w
  if magnitude w = (0x7F800000#32).extractLsb' 0 31 then .infinity
  else if t.e = 47 ∧ 50000000 < t.m then .nan
  else if 30000000 ≤ F then .nan
  else if (E ≤ 13 ∨ 50 ≤ E) ∧ t.e ≠ -48 ∧ F % 10 ^ 7 < 1000000 then .nan
  else .valid

/-- "a word whose rendering by FMT is neither `NaN` nor `±Infinity`", rule R15. -/
def isValidWord (w : Word) : Bool :=
  decide (classify w = .valid)

/-- The character of a sign, rule R190. -/
def signChar (negative : Bool) : Char :=
  if negative then '-' else '+'

/-- The decimal digit of `n` at `10^k`, as a character. -/
def digitChar (n k : Nat) : Char :=
  Char.ofNat ('0'.toNat + n / 10 ^ k % 10)

/-- The generic text of rule R190: sign, leading digit, point, seven digits, `e`, and the exponent
with its sign and two digits. -/
def genericText (t : Triple) : List Char :=
  [signChar (decide (t.s = 1#1)), digitChar t.m 7, '.', digitChar t.m 6, digitChar t.m 5,
    digitChar t.m 4, digitChar t.m 3, digitChar t.m 2, digitChar t.m 1, digitChar t.m 0, 'e',
    signChar (decide (t.e < 0)), digitChar t.e.natAbs 1, digitChar t.e.natAbs 0]

/-- The text of a word, rule R190. `NaN` has no sign; `Infinity` has one. -/
def renderText (w : Word) : List Char :=
  match classify w with
  | .infinity => signChar (decide (signOf w = 1#1)) :: ['I', 'n', 'f', 'i', 'n', 'i', 't', 'y']
  | .nan => ['N', 'a', 'N']
  | .valid => genericText (decodeWord w)

/-- One ASCII character on one byte, rule R45. -/
def asciiByte (c : Char) : Byte :=
  BitVec.ofNat 8 c.toNat

/-- The 15 bytes that carry a text: its characters, the NUL terminator, and 0x00 to the end (rule
R191). -/
def textPort (t : List Char) : Vector Byte 15 :=
  Vector.ofFn fun i => (t.map asciiByte).getD i.val 0x00#8

/-- The unit decimal_fp_text_renderer on its ports, rule R61. -/
def rendererUnit (w : Word) : Vector Byte 15 :=
  textPort (renderText w)

/-- FMT, op 0xB (rules R190 and R191). -/
def execFmt (w : Word) (s : State) : Host.Outcome State Fault Refusal :=
  .next (s.drive 0xB#4 (.text (rendererUnit w)))

end Sys2Proof.Machine
end

