-- ==== Sys2Proof/Machine/Reserved.lean ====
section
/-! DEFINITION. The four reserved op codes of rule R64: no unit is invoked, `illegal` is 1 and every
result of the command view reads as all zeros. -/

namespace Sys2Proof.Machine

/-- Op 0xC (rule R64). -/
def execReservedC (s : State) : Host.Outcome State Fault Refusal :=
  .next (s.drive 0xC#4 .zeros)

/-- Op 0xD (rule R64). -/
def execReservedD (s : State) : Host.Outcome State Fault Refusal :=
  .next (s.drive 0xD#4 .zeros)

/-- Op 0xE (rule R64). -/
def execReservedE (s : State) : Host.Outcome State Fault Refusal :=
  .next (s.drive 0xE#4 .zeros)

/-- Op 0xF (rule R64). -/
def execReservedF (s : State) : Host.Outcome State Fault Refusal :=
  .next (s.drive 0xF#4 .zeros)

end Sys2Proof.Machine
end

