-- ==== Sys2Proof/Machine/Dispatch.lean ====
section
/-! DEFINITION. The meaning of each command, one arm per constructor of `Instr`. -/

namespace Sys2Proof.Machine

def exec (i : Instr) (s : State) : Host.Outcome State Fault Refusal :=
  match i with
  | .encm sign mant8 exp => Sys2Proof.Machine.execEncm sign mant8 exp s
  | .encd sign lead trail exp => Sys2Proof.Machine.execEncd sign lead trail exp s
  | .dec w => Sys2Proof.Machine.execDec w s
  | .shift x amt => Sys2Proof.Machine.execShift x amt s
  | .add a b => Sys2Proof.Machine.execAdd a b s
  | .sub a b => Sys2Proof.Machine.execSub a b s
  | .neg a => Sys2Proof.Machine.execNeg a s
  | .mul a b => Sys2Proof.Machine.execMul a b s
  | .div a b => Sys2Proof.Machine.execDiv a b s
  | .f2d f => Sys2Proof.Machine.execF2d f s
  | .d2f w => Sys2Proof.Machine.execD2f w s
  | .fmt w => Sys2Proof.Machine.execFmt w s
  | .reservedC => Sys2Proof.Machine.execReservedC s
  | .reservedD => Sys2Proof.Machine.execReservedD s
  | .reservedE => Sys2Proof.Machine.execReservedE s
  | .reservedF => Sys2Proof.Machine.execReservedF s

end Sys2Proof.Machine
end

