-- ==== Sys2Proof/Machine/Step.lean ====
section
/-! DEFINITION. One step: one invocation of the command on the input ports (rules R9 and R62). There is
no fetch and no program counter (rules R20, R53 and R71): the host presents each command. -/

namespace Sys2Proof.Machine

/-- One invocation, inputs to outputs, as one atomic step (rule R9). -/
def step (s : State) : Host.Outcome State Fault Refusal :=
  exec (decode s.ins) s

/-- `s` with the instruction whose bits are `w`, `nbits` of them, standing on the input ports, where
the next step reads its command; every bit above `nbits` is 0. Log entry 3: it stands for the host's
presenting a command. -/
def State.withFetchWord (s : State) (nbits w : Nat) : State :=
  { s with ins := unpackPorts (imageOfTableWord nbits w) }

end Sys2Proof.Machine
end

