-- ==== Sys2Proof/Machine/Notation.lean ====
section
/-! DEFINITION. The notation for commands: mnemonics, DS32's synonyms, operand spellings (rule R69) and
the pseudo-commands (rule R70). It names commands; the block itself reads ports. -/

namespace Sys2Proof.Machine

/-- The mnemonic of rule R62, and the opcode table's name for a reserved row. -/
def mnemonicOf : Instr → String
  | .encm _ _ _ => "ENCM"
  | .encd _ _ _ _ => "ENCD"
  | .dec _ => "DEC"
  | .shift _ _ => "SHIFT"
  | .add _ _ => "ADD"
  | .sub _ _ => "SUB"
  | .neg _ => "NEG"
  | .mul _ _ => "MUL"
  | .div _ _ => "DIV"
  | .f2d _ => "F2D"
  | .d2f _ => "D2F"
  | .fmt _ => "FMT"
  | .reservedC => "RESERVED_C"
  | .reservedD => "RESERVED_D"
  | .reservedE => "RESERVED_E"
  | .reservedF => "RESERVED_F"

/-- The names of commands: the mnemonics of rule R62 and the DS32 function names that rule R69
accepts as their synonyms, in the order of rule R62. SHIFT has no synonym. -/
def commandNames : List (String × OpBits) :=
  [("ENCM", 0x0), ("ENCD", 0x1), ("DEC", 0x2), ("SHIFT", 0x3), ("ADD", 0x4), ("SUB", 0x5),
    ("NEG", 0x6), ("MUL", 0x7), ("DIV", 0x8), ("F2D", 0x9), ("D2F", 0xA), ("FMT", 0xB),
    ("encodeFromMantissa", 0x0), ("encodeFromDigits", 0x1), ("decode", 0x2), ("add", 0x4),
    ("subtract", 0x5), ("negate", 0x6), ("multiply", 0x7), ("divide", 0x8),
    ("fromBinaryFloat", 0x9), ("toBinaryFloat", 0xA), ("format", 0xB)]

/-- An operand as rule R69 spells it. -/
inductive Spelling where
  /-- `+` (false) or `-` (true). -/
  | sign (negative : Bool)
  /-- A decimal integer. -/
  | int (v : Int)
  /-- `0x` and this many hex digits, reading `v`. -/
  | hex (digits v : Nat)
deriving DecidableEq, Repr

/-- Why a written command names no command of the block. -/
inductive AssembleError where
  /-- The name is no mnemonic of rule R62 and no synonym of rule R69. -/
  | unknownName
  /-- An operand is missing, surplus, of the wrong spelling, or does not fit its port (rule R61). -/
  | badOperands
deriving DecidableEq, Repr

/-- A sign operand. -/
def Spelling.toSign : Spelling → Option SignBit
  | .sign negative => some (BitVec.ofBool negative)
  | .int _ => none
  | .hex _ _ => none

/-- A non-negative integer that fits an unsigned port of width `n`. -/
def Spelling.toUnsigned (n : Nat) : Spelling → Option (BitVec n)
  | .int v => if 0 ≤ v ∧ v < 2 ^ n then some (BitVec.ofInt n v) else none
  | .sign _ => none
  | .hex _ _ => none

/-- An integer that fits an 8-bit two's complement port. -/
def Spelling.toSigned8 : Spelling → Option (BitVec 8)
  | .int v => if -128 ≤ v ∧ v ≤ 127 then some (BitVec.ofInt 8 v) else none
  | .sign _ => none
  | .hex _ _ => none

/-- A pattern of `n` bits, written with `n / 4` hex digits. -/
def Spelling.toPattern (n : Nat) : Spelling → Option (BitVec n)
  | .hex digits v => if 4 * digits = n ∧ v < 2 ^ n then some (BitVec.ofNat n v) else none
  | .sign _ => none
  | .int _ => none

/-- The operands of a command as rule R69 spells them, in the order of rule R73. -/
def spellingsOf : Instr → List Spelling
  | .encm sign mant8 exp => [.sign (decide (sign = 1#1)), .int mant8.toNat, .int exp.toInt]
  | .encd sign lead trail exp =>
      [.sign (decide (sign = 1#1)), .int lead.toNat, .int trail.toNat, .int exp.toInt]
  | .dec w => [.hex 8 w.toNat]
  | .shift x amt => [.int x.toNat, .int amt.toInt]
  | .add a b => [.hex 8 a.toNat, .hex 8 b.toNat]
  | .sub a b => [.hex 8 a.toNat, .hex 8 b.toNat]
  | .neg a => [.hex 8 a.toNat]
  | .mul a b => [.hex 8 a.toNat, .hex 8 b.toNat]
  | .div a b => [.hex 8 a.toNat, .hex 8 b.toNat]
  | .f2d f => [.hex 16 f.toNat]
  | .d2f w => [.hex 8 w.toNat]
  | .fmt w => [.hex 8 w.toNat]
  | .reservedC => []
  | .reservedD => []
  | .reservedE => []
  | .reservedF => []

/-- The command of an op code with these operands; `none` where they do not fit its format. -/
def buildCommand (op : OpBits) (operands : List Spelling) : Option Instr :=
  match op.toNat, operands with
  | 0x0, [s, m, e] => do pure (.encm (← s.toSign) (← m.toUnsigned 27) (← e.toSigned8))
  | 0x1, [s, l, t, e] => do
      pure (.encd (← s.toSign) (← l.toUnsigned 4) (← t.toUnsigned 24) (← e.toSigned8))
  | 0x2, [w] => do pure (.dec (← w.toPattern 32))
  | 0x3, [x, k] => do pure (.shift (← x.toUnsigned 32) (← k.toSigned8))
  | 0x4, [a, b] => do pure (.add (← a.toPattern 32) (← b.toPattern 32))
  | 0x5, [a, b] => do pure (.sub (← a.toPattern 32) (← b.toPattern 32))
  | 0x6, [a] => do pure (.neg (← a.toPattern 32))
  | 0x7, [a, b] => do pure (.mul (← a.toPattern 32) (← b.toPattern 32))
  | 0x8, [a, b] => do pure (.div (← a.toPattern 32) (← b.toPattern 32))
  | 0x9, [f] => do pure (.f2d (← f.toPattern 64))
  | 0xA, [w] => do pure (.d2f (← w.toPattern 32))
  | 0xB, [w] => do pure (.fmt (← w.toPattern 32))
  | _, _ => none

/-- The command that a name and its spelt operands stand for (rule R69). -/
def assemble (name : String) (operands : List Spelling) : Except AssembleError Instr :=
  match commandNames.lookup name with
  | none => .error .unknownName
  | some op =>
    match buildCommand op operands with
    | none => .error .badOperands
    | some i => .ok i

/-- The pseudo-command `MKDIGITS units, decimals, e` of rule R70: `ENCD s, |units|, decimals, e` with
`s = 1` for negative units. -/
def assembleMkdigits (units decimals e : Int) : Except AssembleError Instr :=
  assemble "ENCD" [.sign (decide (units < 0)), .int units.natAbs, .int decimals, .int e]

/-- The pseudo-command `ONE` of rule R70: the word `ENCM +, 10000000, 0`. -/
def oneWord : Word :=
  encmWord 0#1 10000000#27 0#8

end Sys2Proof.Machine
end

