-- ==== Sys2Proof/Machine/Value.lean ====
section
/-! DEFINITION. The real values that triples and binary64 patterns stand for (rules R13 and R170).
They are rational numbers; claims use them and no unit does. -/

namespace Sys2Proof.Machine

/-- The sign factor `(-1)^s`. -/
def signFactor (s : SignBit) : ℚ :=
  if s = 1#1 then -1 else 1

/-- `(-1)^s * m * 10^(e-7)`, rule R13. -/
def Triple.value (t : Triple) : ℚ :=
  signFactor t.s * t.m * (10 : ℚ) ^ (t.e - 7)

/-- "A triple is normal when 10,000,000 <= m <= 99,999,999", rule R13. -/
def Triple.isNormal (t : Triple) : Bool :=
  decide (10000000 ≤ t.m) && decide (t.m ≤ 99999999)

/-- The value of a word: that of its decoded triple (rules R13 and R101). -/
def wordValue (w : Word) : ℚ :=
  (decodeWord w).value

/-- The value of a finite binary64 pattern, rule R170. Without meaning where `be = 2047`. -/
def f64Value (f : Binary64) : ℚ :=
  signFactor (f64Sign f) * f64Significand f * (2 : ℚ) ^ f64Scale f

end Sys2Proof.Machine
end

