-- ==== Sys2Proof/Safety.lean ====
section
/-! DEFINITION. What counts as a safe state and a safe run, in the terms claims use: an invocation
completes (rule R200), the outputs are the function of the inputs present (rules R9 and R230), and
every result stays in the range its unit's rules give it. -/

namespace Sys2Proof.Safety

open Sys2Proof.Machine

/-- The invocation of the command on the ports completes with results (rule R200). -/
def Completes (s : State) : Prop :=
  ∃ t, step s = .next t

/-- The output ports carry the function of the input ports present: invoking the command on them
changes nothing (rules R9, R48 and R230). -/
def Settled (s : State) : Prop :=
  step s = .next s

/-- An ASCII digit. -/
def isDigitByte (b : Byte) : Bool :=
  decide (0x30#8 ≤ b) && decide (b ≤ 0x39#8)

/-- The ASCII code of `+` or `-`. -/
def isSignByte (b : Byte) : Bool :=
  decide (b = 0x2B#8) || decide (b = 0x2D#8)

/-- The 14 characters `±D.DDDDDDDe±EE` and the NUL terminator (rules R190 and R191). -/
def isGenericText (v : Vector Byte 15) : Bool :=
  isSignByte v[0] && isDigitByte v[1] && decide (v[2] = 0x2E#8) && isDigitByte v[3]
    && isDigitByte v[4] && isDigitByte v[5] && isDigitByte v[6] && isDigitByte v[7]
    && isDigitByte v[8] && isDigitByte v[9] && decide (v[10] = 0x65#8) && isSignByte v[11]
    && isDigitByte v[12] && isDigitByte v[13] && decide (v[14] = 0x00#8)

/-- The bytes of `NaN` on the text port (rule R191). -/
def nanText : Vector Byte 15 :=
  #v[0x4E, 0x61, 0x4E, 0x00, 0x00, 0x00, 0x00, 0x00, 0x00, 0x00, 0x00, 0x00, 0x00, 0x00, 0x00]

/-- The bytes of `+Infinity` or `-Infinity` on the text port, by the byte of the sign (rule R191). -/
def infinityText (sign : Byte) : Vector Byte 15 :=
  #v[sign, 0x49, 0x6E, 0x66, 0x69, 0x6E, 0x69, 0x74, 0x79, 0x00, 0x00, 0x00, 0x00, 0x00, 0x00]

/-- The ranges of the results: an encoded word has F <= 29,999,999 (rule R107); a triple lies in the
decoder's range (rule R26); a value also, unless NEG drove it, which copies F (rule R107); a binary64
result is a zero, a normal number or the quiet NaN (rules R182 and R183); a text is one of the three
kinds of rule R191; and `illegal` is 1 exactly where every result reads as zeros (rule R64). -/
def ResultsInRange (s : State) : Prop :=
  match s.out with
  | .word w => mantField w ≤ 29999999 ∧ s.illegal = false
  | .triple _ m e => m.toNat ≤ 103554431 ∧ -48 ≤ signed e ∧ signed e ≤ 48 ∧ s.illegal = false
  | .shifted _ => s.illegal = false
  | .value r => (mantField r ≤ 29999999 ∨ s.ins.op = 0x6#4) ∧ s.illegal = false
  | .binary f =>
      ((f64Class f = .normal ∨ (f64Class f = .tiny ∧ f64Frac f = 0))
        ∨ f = f64QuietNaN (f64Sign f)) ∧ s.illegal = false
  | .text v =>
      (v = nanText ∨ v = infinityText 0x2B ∨ v = infinityText 0x2D ∨ isGenericText v = true)
        ∧ s.illegal = false
  | .zeros => s.illegal = true

end Sys2Proof.Safety
end

