-- ==== Sys2Proof/Certificates/Slice0/Obligations.lean ====
section
/-! DEFINITION. The statements for the provers. The definitions of `Sys2Proof.Spec` read a rule in plain
arithmetic, apart from the model's own bit fields, so that a statement can compare the two. -/

namespace Sys2Proof.Spec

open Sys2Proof.Machine

/-- `s` of rule R60 as a number. -/
def fieldS (w : Word) : Nat := w.toNat / 2 ^ 31

/-- `E` of rule R60 as a number. -/
def fieldE (w : Word) : Nat := w.toNat / 2 ^ 25 % 2 ^ 6

/-- `F` of rule R60 as a number. -/
def fieldF (w : Word) : Nat := w.toNat % 2 ^ 25

/-- The word of three fields given as numbers, rules R12 and R21. -/
def pack (s E F : Nat) : Word := BitVec.ofNat 32 (s * 2 ^ 31 + E * 2 ^ 25 + F)

/-- `INF(s)`, rule R22. -/
def inf (s : Nat) : Word := pack s 63 25165824

/-- `QNAN(s)`, rule R23. -/
def qnan (s : Nat) : Word := pack s 63 29360128

/-- The sign of a product or a quotient: `sa xor sb`, rules R150 and R152. -/
def xorSign (a b : Word) : Nat := (fieldS a + fieldS b) % 2

/-- `(-1)^s * m`. -/
def signedMagnitude (s : SignBit) (m : Nat) : Int := if s = 1#1 then -(m : Int) else m

/-- The result word of rule R103 for a sign, a mantissa and an exponent, in the field maps of rules
R65 and R66. -/
def encodedWord (s m : Nat) (e : Int) : Word :=
  if 99999999 < m ∨ e < -48 ∨ 47 < e then qnan s
  else if -6 ≤ e ∧ e ≤ 5 then
    if m < 10 ^ 7 then qnan s
    else if m / 10 ^ 7 ≤ 3 then pack s (32 + 3 * e).toNat ((m / 10 ^ 7 - 1) * 10 ^ 7 + m % 10 ^ 7)
    else if m / 10 ^ 7 ≤ 6 then pack s (33 + 3 * e).toNat ((m / 10 ^ 7 - 4) * 10 ^ 7 + m % 10 ^ 7)
    else pack s (34 + 3 * e).toNat ((m / 10 ^ 7 - 7) * 10 ^ 7 + m % 10 ^ 7)
  else if e ≤ -7 then pack s (16 + e / 3).toNat ((e % 3).toNat * 10 ^ 7 + m / 10)
  else pack s (48 + e / 3).toNat ((e % 3).toNat * 10 ^ 7 + m / 10)

/-- The exponent of rule R132 before finalisation: the larger of the two, and one less where the
exponents and the signs differ (the guard digit). -/
def addExponent (a b : Triple) : Int :=
  if a.e = b.e then a.e else if a.s = b.s then max a.e b.e else max a.e b.e - 1

/-- A mantissa brought to exponent `e`: exact upwards, truncated downwards, and 0 once more than 8
digits are lost (rules R120 and R132). -/
def aligned (t : Triple) (e : Int) : Nat :=
  if e ≤ t.e then t.m * 10 ^ (t.e - e).toNat
  else if 8 < e - t.e then 0 else t.m / 10 ^ (e - t.e).toNat

/-- The signed sum of the aligned mantissas. -/
def alignedSum (a b : Triple) : Int :=
  signedMagnitude a.s (aligned a (addExponent a b)) +
    signedMagnitude b.s (aligned b (addExponent a b))

/-- The sign of rule R132's result: that of the sum, and for a zero sum the operands' common sign or
else 0. -/
def sumSign (a b : Triple) : SignBit :=
  if alignedSum a b < 0 then 1#1
  else if 0 < alignedSum a b then 0#1
  else if a.s = b.s then a.s else 0#1

/-- The ranges that rule R26 gives the decoded triple of a valid word. -/
def InValidRanges (w : Word) (t : Triple) : Prop :=
  ((10000000 ≤ t.m ∧ t.m ≤ 99999999 ∧ -48 ≤ t.e ∧ t.e ≤ 47) ∨
    (t.e = -48 ∧ t.m = 10 * fieldF w ∧ fieldF w ≤ 999999)) ∧
  (fieldE w ≤ 13 ∨ 50 ≤ fieldE w → t.m % 10 = 0) ∧
  (t.e = 47 → t.m ≤ 50000000)

/-- Two settings of the ports agree on the op code and on the ports that its format names (rule
R73). -/
def NamedPortsAgree (p q : Ports) : Prop :=
  p.op = q.op ∧
  (p.op = 0x0 → p.sign = q.sign ∧ p.mant8 = q.mant8 ∧ p.exp = q.exp) ∧
  (p.op = 0x1 → p.sign = q.sign ∧ p.lead = q.lead ∧ p.trail = q.trail ∧ p.exp = q.exp) ∧
  (p.op = 0x2 ∨ p.op = 0xA ∨ p.op = 0xB → p.w = q.w) ∧
  (p.op = 0x3 → p.x = q.x ∧ p.amt = q.amt) ∧
  (p.op = 0x6 → p.a = q.a) ∧
  (p.op = 0x4 ∨ p.op = 0x5 ∨ p.op = 0x7 ∨ p.op = 0x8 → p.a = q.a ∧ p.b = q.b) ∧
  (p.op = 0x9 → p.f = q.f)

/-- The word of rules R173 to R175 for a binary64 pattern's sign, biased exponent and fraction. -/
def convertedWord (s be frac : Nat) : Word :=
  let x : Int := (be : Int) - 1023
  if be = 2047 ∧ frac ≠ 0 then qnan s
  else if be = 2047 then inf s
  else if be = 0 then pack s 0 0
  else if 159 < x then inf s
  else if x < -179 then pack s 0 0
  else finalize (BitVec.ofNat 1 s)
    (((2 ^ 52 + frac) / 2 ^ 30 * romPow2 x + 5000000) / 10 ^ 7) (romPow2Exp x + 6)

/-- What ENCM makes of the triple that DEC makes of a word. -/
def reencoded (w : Word) : Word :=
  encodeTriple (decodeWord w).s (decodeWord w).m (decodeWord w).e

/-- The ASCII code of a digit of `n` at `10^k`. -/
def digitCode (n k : Nat) : Byte := BitVec.ofNat 8 (0x30 + n / 10 ^ k % 10)

/-- The ASCII code of `-` or `+`. -/
def signCode (negative : Prop) [Decidable negative] : Byte := if negative then 0x2D else 0x2B

/-- The 15 bytes of the generic text of rule R190 on the port of rule R191. -/
def genericBytes (s : Nat) (m : Nat) (e : Int) : Vector Byte 15 :=
  #v[signCode (s = 1), digitCode m 7, 0x2E, digitCode m 6, digitCode m 5, digitCode m 4,
    digitCode m 3, digitCode m 2, digitCode m 1, digitCode m 0, 0x65, signCode (e < 0),
    digitCode e.natAbs 1, digitCode e.natAbs 0, 0x00]

end Sys2Proof.Spec

open Sys2Proof Sys2Proof.Machine Sys2Proof.Safety Sys2Proof.Spec

/-! ### The command view -/

/-- The port image loses nothing: packing and unpacking are inverse. The image is the model's own
(log entry 2). -/
def Obligations.PortImageRoundTrip : Prop :=
  (∀ p : Ports, unpackPorts (packPorts p) = p) ∧
  (∀ v : PortImage, packPorts (unpackPorts v) = v)

/-- Decode and encode agree on every command, every operand at every value its port admits. The places of
the operand ports in the image are the model's own choice (log entry 2, DESIGN CHOICE). -/
def Obligations.EncodedCommandsDecode : Prop :=
  ∀ i : Instr, decodeImage (encodeImage i) = i

/-- Rule R63, "Operands a command does not name are ignored": the decoder reads the op code and the
ports its format names. -/
def Obligations.UnnamedPortsAreIgnored : Prop :=
  ∀ p q : Ports, NamedPortsAgree p q → decode p = decode q

/-- The rows of the opcode table, as the table numbers them, and three commands with operands written
out on the port image. The op code's place, bits 3..0, is the table's; the operands' bit places in the
last three clauses are the model's own choice and no rule of the spec (log entry 2, DESIGN CHOICE). -/
def Obligations.TableWordsDecodeToTheirRows : Prop :=
  decodeTableWord 8 0x0 = some (.encm 0 0 0) ∧
  decodeTableWord 8 0x1 = some (.encd 0 0 0 0) ∧
  decodeTableWord 8 0x2 = some (.dec 0) ∧
  decodeTableWord 8 0x3 = some (.shift 0 0) ∧
  decodeTableWord 8 0x4 = some (.add 0 0) ∧
  decodeTableWord 8 0x5 = some (.sub 0 0) ∧
  decodeTableWord 8 0x6 = some (.neg 0) ∧
  decodeTableWord 8 0x7 = some (.mul 0 0) ∧
  decodeTableWord 8 0x8 = some (.div 0 0) ∧
  decodeTableWord 8 0x9 = some (.f2d 0) ∧
  decodeTableWord 8 0xA = some (.d2f 0) ∧
  decodeTableWord 8 0xB = some (.fmt 0) ∧
  decodeTableWord 8 0xC = some .reservedC ∧
  decodeTableWord 8 0xD = some .reservedD ∧
  decodeTableWord 8 0xE = some .reservedE ∧
  decodeTableWord 8 0xF = some .reservedF ∧
  decodeTableWord 268 (0x0 + 1 * 2 ^ 4 + 10000000 * 2 ^ 5 + 0xD0 * 2 ^ 60)
    = some (.encm 1 10000000 0xD0) ∧
  decodeTableWord 268 (0x3 + 12345678 * 2 ^ 100 + 0xFD * 2 ^ 132) = some (.shift 12345678 0xFD) ∧
  decodeTableWord 268 (0x4 + 0x40000000 * 2 ^ 140 + 0x40989680 * 2 ^ 172)
    = some (.add 0x40000000 0x40989680)

/-- A step runs the command that the input ports hold (rules R9 and R62). The clauses on `present` and
`withFetchWord` are the model's own choices and no rule of the spec: how a command comes to stand on
the ports is log entry 3, and the bit places of the ports in a placed word are log entry 2 (both
DESIGN CHOICE, unsafe). -/
def Obligations.StepRunsTheDecodedCommand : Prop :=
  (∀ (s : State) (i : Instr), decode s.ins = i → step s = exec i s) ∧
  (∀ (s : State) (i : Instr), step (s.present i) = exec i (s.present i)) ∧
  (∀ (s : State) (nbits w : Nat) (i : Instr), decodeTableWord nbits w = some i →
    step (s.withFetchWord nbits w) = exec i (s.withFetchWord nbits w))

/-- Rule R64: a reserved op code drives `illegal = 1`, every result reads as zeros, and nothing else
changes; the adder's reserved mode drives 0. -/
def Obligations.ReservedOpcodesDriveIllegalAndZeros : Prop :=
  (∀ s : State,
    exec .reservedC s = .next { s with out := .zeros, illegal := true } ∧
    exec .reservedD s = .next { s with out := .zeros, illegal := true } ∧
    exec .reservedE s = .next { s with out := .zeros, illegal := true } ∧
    exec .reservedF s = .next { s with out := .zeros, illegal := true }) ∧
  Results.zeros.w? = some 0 ∧ Results.zeros.sign? = some 0 ∧ Results.zeros.mant8? = some 0 ∧
  Results.zeros.exp? = some 0 ∧ Results.zeros.y? = some 0 ∧ Results.zeros.r? = some 0 ∧
  Results.zeros.f? = some 0 ∧
  Results.zeros.txt? = some #v[0, 0, 0, 0, 0, 0, 0, 0, 0, 0, 0, 0, 0, 0, 0] ∧
  (∀ a b : Word, adderUnit 0b11#2 a b = 0)

/-- Rule R29: "It is 1 for a reserved op code (rule R64) and 0 otherwise", whatever the state before
the step. -/
def Obligations.IllegalStrobeMarksReservedOpcodes : Prop :=
  ∀ s t : State, step s = .next t → (t.illegal = true ↔ 0xC ≤ s.ins.op.toNat)

/-- Rule R200: "Every invocation of every unit completes with a value." The model's step never faults
and never refuses, and leaves the input ports to the host. -/
def Obligations.EveryInvocationCompletes : Prop :=
  ∀ s : State, ∃ t, step s = .next t ∧ t.ins = s.ins

/-- Rule R48: the same inputs give the same outputs, repeating an invocation changes nothing, and an
invocation writes nothing but its results and the strobe. -/
def Obligations.InvocationsHaveNoSideEffects : Prop :=
  (∀ s t : State, s.ins = t.ins →
    ∃ r l, step s = .next { s with out := r, illegal := l } ∧
      step t = .next { t with out := r, illegal := l }) ∧
  (∀ s t : State, step s = .next t → step t = .next t)

/-- Rules R51 and R235: a command issued after any other gives the results it would give alone. That a
command is issued by putting it on the ports with `State.present` is the model's own choice (log
entry 3, DESIGN CHOICE). -/
def Obligations.InvocationsDoNotDependOnOrder : Prop :=
  ∀ (s t : State) (i j : Instr), step (s.present j) = .next t →
    ∃ u v, step (t.present i) = .next u ∧ step (s.present i) = .next v ∧
      u.out = v.out ∧ u.illegal = v.illegal

/-- Rule R230, "an output's value is the unit's function of whatever its inputs hold", at the model's
reset state, whose input ports stand at 0 by the model's choice (log entry 1). -/
def Obligations.ResetOutputsFollowInputs : Prop :=
  Settled State.reset ∧ State.reset.ins = Ports.zero

/-! ### The codec -/

/-- Rule R101: the three results of DEC for every word, as numbers on their ports. -/
def Obligations.DecReturnsTheTriple : Prop :=
  ∀ (w : Word) (s : State), ∃ sg mt ex,
    exec (.dec w) s = .next { s with out := .triple sg mt ex, illegal := false } ∧
    sg.toNat = fieldS w ∧
    (14 ≤ fieldE w ∧ fieldE w ≤ 49 →
      mt.toNat = fieldF w + (1 + 3 * ((fieldE w - 14) % 3)) * 10 ^ 7 ∧
      ex.toInt = ((fieldE w - 14) / 3 : Nat) - 6) ∧
    (fieldE w ≤ 13 ∨ 50 ≤ fieldE w →
      mt.toNat = 10 * (fieldF w % 10 ^ 7) ∧
      ex.toInt = 3 * ((fieldE w : Int) - (if fieldE w ≤ 13 then 16 else 48))
        + (fieldF w / 10 ^ 7 : Nat))

/-- Rules R103 and R104: the word ENCM returns for every value of its ports. -/
def Obligations.EncmReturnsTheEncodedWord : Prop :=
  ∀ (sign : SignBit) (mant8 : MantBits) (exp : ExpBits) (s : State),
    exec (.encm sign mant8 exp) s = .next
      { s with out := .word (encodedWord sign.toNat mant8.toNat exp.toInt), illegal := false }

/-- Rules R105 and R106: the word ENCD returns for every value of its ports, which is ENCM's wherever
`lead` and `trail` are digits. -/
def Obligations.EncdReturnsTheEncodedWord : Prop :=
  ∀ (sign : SignBit) (lead : LeadBits) (trail : TrailBits) (exp : ExpBits) (s : State),
    exec (.encd sign lead trail exp) s = .next
      { s with
        out := .word (if 9 < lead.toNat ∨ 9999999 < trail.toNat then qnan sign.toNat
          else encodedWord sign.toNat (lead.toNat * 10 ^ 7 + trail.toNat) exp.toInt),
        illegal := false } ∧
    (lead.toNat ≤ 9 → trail.toNat ≤ 9999999 →
      exec (.encd sign lead trail exp) s =
        exec (.encm sign (BitVec.ofNat 27 (lead.toNat * 10 ^ 7 + trail.toNat)) exp) s)

/-- Rule R26: the ranges of the decoded triple, of a valid word and of any word. -/
def Obligations.DecodedTriplesAreInRange : Prop :=
  ∀ w : Word,
    (decodeWord w).m ≤ 103554431 ∧ -48 ≤ (decodeWord w).e ∧ (decodeWord w).e ≤ 48 ∧
    (isValidWord w = true → InValidRanges w (decodeWord w))

/-- Rule R102: a valid word decodes into the ranges of rule R26, and ENCM of DEC's results returns the
word. -/
def Obligations.ValidWordsRoundTrip : Prop :=
  ∀ (w : Word) (s : State), isValidWord w = true →
    InValidRanges w (decodeWord w) ∧
    ∃ sg mt ex,
      exec (.dec w) s = .next { s with out := .triple sg mt ex, illegal := false } ∧
      exec (.encm sg mt ex) s = .next { s with out := .word w, illegal := false }

/-- Rule R108: DEC followed by ENCM returns the word exactly where F < 30,000,000; the rule's own
words; and NEG passes every word's other bits through. -/
def Obligations.DecEncmReturnsWordsBelowThirtyMillion : Prop :=
  (∀ w : Word, reencoded w = w ↔ fieldF w < 30000000) ∧
  (∀ (w : Word) (s : State), ∃ sg mt ex,
    exec (.dec w) s = .next { s with out := .triple sg mt ex, illegal := false } ∧
    exec (.encm sg mt ex) s = .next { s with out := .word (reencoded w), illegal := false }) ∧
  (reencoded 0x01312D00 = 0x01312D00 ∧ reencoded 0x6807A120 = 0x6807A120 ∧
    reencoded 0x7FC00000 = 0x7FC00000 ∧ reencoded 0x7F800000 = 0x7F800000 ∧
    reencoded 0x41C9C380 = 0x42000000 ∧ reencoded 0x0BC9C380 = 0x0C000000 ∧
    reencoded 0x7FC9C380 = qnan 0 ∧ reencoded 0xFFFFFFFF = qnan 1) ∧
  (∀ w : Word, fieldE (negWord w) = fieldE w ∧ fieldF (negWord w) = fieldF w)

/-- DS32's "Round-trip (digits)": a triple that respects its region's precision comes back from the
word ENCM gives it. -/
def Obligations.EncmThenDecReturnsTheDigits : Prop :=
  ∀ (sign : SignBit) (mant8 : MantBits) (exp : ExpBits) (s : State),
    mant8.toNat ≤ 99999999 → -48 ≤ exp.toInt → exp.toInt ≤ 47 →
    (-6 ≤ exp.toInt ∧ exp.toInt ≤ 5 → 10000000 ≤ mant8.toNat) →
    (exp.toInt < -6 ∨ 5 < exp.toInt → mant8.toNat % 10 = 0) →
    ∃ w,
      exec (.encm sign mant8 exp) s = .next { s with out := .word w, illegal := false } ∧
      exec (.dec w) s = .next { s with out := .triple sign mant8 exp, illegal := false }

/-- Rule R107: the words of ENCM, ENCD, ADD, SUB, MUL, DIV and F2D have F <= 29,999,999, and NEG
copies its operand's F. -/
def Obligations.EncoderNeverExceedsItsField : Prop :=
  ∀ s : State,
    (∀ sign mant8 exp, ∃ w,
      exec (.encm sign mant8 exp) s = .next { s with out := .word w, illegal := false } ∧
      fieldF w ≤ 29999999) ∧
    (∀ sign lead trail exp, ∃ w,
      exec (.encd sign lead trail exp) s = .next { s with out := .word w, illegal := false } ∧
      fieldF w ≤ 29999999) ∧
    (∀ f, ∃ w, exec (.f2d f) s = .next { s with out := .word w, illegal := false } ∧
      fieldF w ≤ 29999999) ∧
    (∀ a b, ∃ r, exec (.add a b) s = .next { s with out := .value r, illegal := false } ∧
      fieldF r ≤ 29999999) ∧
    (∀ a b, ∃ r, exec (.sub a b) s = .next { s with out := .value r, illegal := false } ∧
      fieldF r ≤ 29999999) ∧
    (∀ a b, ∃ r, exec (.mul a b) s = .next { s with out := .value r, illegal := false } ∧
      fieldF r ≤ 29999999) ∧
    (∀ a b, ∃ r, exec (.div a b) s = .next { s with out := .value r, illegal := false } ∧
      fieldF r ≤ 29999999) ∧
    (∀ a, ∃ r, exec (.neg a) s = .next { s with out := .value r, illegal := false } ∧
      fieldF r = fieldF a)

/-- Rule R233: what the block returns where a host breaks a caller obligation. -/
def Obligations.BrokenObligationsGiveDefinedValues : Prop :=
  ∀ s : State,
    (∀ (x : ShiftData) (amt : AmtBits), (Instr.shift x amt).honoursObligations = false →
      exec (.shift x amt) s = .next
        { s with out := .shifted (BitVec.ofNat 32 (x.toNat * 10 ^ amt.toInt.toNat)),
                 illegal := false }) ∧
    (∀ sign mant8 exp, (Instr.encm sign mant8 exp).honoursObligations = false →
      exec (.encm sign mant8 exp) s = .next
        { s with out := .word (qnan sign.toNat), illegal := false }) ∧
    (∀ sign lead trail exp, (Instr.encd sign lead trail exp).honoursObligations = false →
      exec (.encd sign lead trail exp) s = .next
        { s with out := .word (qnan sign.toNat), illegal := false })

/-- Rules R22 and R23: the Infinity words, the canonical NaN words and what they are to FMT. -/
def Obligations.SpecialWordPatterns : Prop :=
  infWord 0#1 = 0x7F800000#32 ∧ infWord 1#1 = 0xFF800000#32 ∧
  qnanWord 0#1 = 0x7FC00000#32 ∧ qnanWord 1#1 = 0xFFC00000#32 ∧
  (∀ s : SignBit, fieldE (infWord s) = 63 ∧ fieldF (infWord s) = 25165824 ∧
    fieldE (qnanWord s) = 63 ∧ fieldF (qnanWord s) = 29360128 ∧
    classify (infWord s) = .infinity ∧ classify (qnanWord s) = .nan)

/-! ### The shifter -/

/-- Rules R120 and R122: SHIFT's result for every amount. -/
def Obligations.ShiftReturnsTheScaledMagnitude : Prop :=
  ∀ (x : ShiftData) (amt : AmtBits) (s : State), ∃ y,
    exec (.shift x amt) s = .next { s with out := .shifted y, illegal := false } ∧
    (amt.toInt < 0 → amt.toInt < -8 ∨ x = 0 → y = 0) ∧
    (amt.toInt < 0 → -8 ≤ amt.toInt → y.toNat = x.toNat / 10 ^ (-amt.toInt).toNat) ∧
    (0 ≤ amt.toInt → y.toNat = x.toNat * 10 ^ amt.toInt.toNat % 2 ^ 32)

/-- Rule R121: a right shift truncates and never rounds. -/
def Obligations.ShiftRightTruncates : Prop :=
  ∀ (x : ShiftData) (amt : AmtBits) (s : State), amt.toInt < 0 → -8 ≤ amt.toInt → ∃ y,
    exec (.shift x amt) s = .next { s with out := .shifted y, illegal := false } ∧
    y.toNat * 10 ^ (-amt.toInt).toNat ≤ x.toNat ∧
    x.toNat < (y.toNat + 1) * 10 ^ (-amt.toInt).toNat

/-! ### Finalisation and the adder -/

/-- Rule R131: one pass of each loop, the overflow test and the encoding, which together determine
`finalize`; and the rule's facts about the loops' end. -/
def Obligations.FinalizeFollowsItsLoops : Prop :=
  ∀ (s : SignBit) (m : Nat) (e : Int),
    (99999999 < m → finalize s m e = finalize s (m / 10) (e + 1)) ∧
    (m < 10000000 → -48 < e → finalize s m e = finalize s (m * 10) (e - 1)) ∧
    (m ≤ 99999999 → e < -48 → finalize s m e = finalize s (m / 10) (e + 1)) ∧
    (m ≤ 99999999 → -48 ≤ e → (10000000 ≤ m ∨ e = -48) →
      finalize s m e = if 47 < e ∨ (e = 47 ∧ 50000000 < m) then inf s.toNat
        else encodeTriple s m e) ∧
    finalize s 0 e = pack s.toNat 0 0 ∧
    (-48 ≤ (runLoops m e).2 ∧ (runLoops m e).1 ≤ 99999999 ∧
      (10000000 ≤ (runLoops m e).1 ∨ (runLoops m e).2 = -48))

/-- What finalisation by rule R131 loses: a finite result keeps the sign, is never larger in magnitude
than the exact input, and falls short of it by less than one unit of the seventh digit. Which inputs
give an Infinity is `FinalizeFollowsItsLoops`. -/
def Obligations.FinalizeTruncatesTowardZero : Prop :=
  ∀ (s : SignBit) (m : Nat) (e : Int), finalize s m e ≠ infWord s →
    signOf (finalize s m e) = s ∧
    |wordValue (finalize s m e)| ≤ (m : ℚ) * (10 : ℚ) ^ (e - 7) ∧
    (m : ℚ) * (10 : ℚ) ^ (e - 7) - |wordValue (finalize s m e)|
      < (10 : ℚ) ^ ((decodeWord (finalize s m e)).e - 6)

/-- Rule R132: ADD is the finalised signed sum of the aligned mantissas, with the guard digit where
exponents and signs differ, and +0 for an exact cancellation. -/
def Obligations.AddReturnsTheAlignedSum : Prop :=
  ∀ (a b : Word) (s : State),
    exec (.add a b) s = .next
      { s with
        out := .value (finalize (sumSign (decodeWord a) (decodeWord b))
          (alignedSum (decodeWord a) (decodeWord b)).natAbs
          (addExponent (decodeWord a) (decodeWord b))),
        illegal := false }

/-- Rule R134: SUB is ADD with the second operand's sign flipped. -/
def Obligations.SubIsAddOfTheNegated : Prop :=
  ∀ (a b : Word) (s : State), ∃ r,
    exec (.sub a b) s = .next { s with out := .value r, illegal := false } ∧
    exec (.add a (b ^^^ 0x80000000#32)) s = .next { s with out := .value r, illegal := false }

/-- Rule R133: NEG flips bit 31 and keeps every other bit, of every word. -/
def Obligations.NegFlipsTheSignBit : Prop :=
  ∀ (a : Word) (s : State),
    exec (.neg a) s = .next { s with out := .value (a ^^^ 0x80000000#32), illegal := false }

/-- Rule R137: the widths that suffice for ADD, and the sum of a word and its negation. -/
def Obligations.AdderWidthsAndCancellation : Prop :=
  (∀ a b : Word,
    (decodeWord a).m ≤ 103554431 ∧
    ((decodeWord a).s = (decodeWord b).s →
      (alignedSum (decodeWord a) (decodeWord b)).natAbs ≤ 207108862) ∧
    ((decodeWord a).s ≠ (decodeWord b).s →
      (decodeWord a).m * 10 ≤ 1035544310 ∧
      (alignedSum (decodeWord a) (decodeWord b)).natAbs ≤ 1035544310) ∧
    (alignedSum (decodeWord a) (decodeWord b)).natAbs < 2 ^ 31) ∧
  (∀ (x : Word) (s : State),
    exec (.add x (x ^^^ 0x80000000#32)) s = .next { s with out := .value 0, illegal := false })

/-- Rule R135: the exponent of a sum before finalisation is at least -48, so the underflow loop never
runs for it. -/
def Obligations.AddNeverUnderflows : Prop :=
  ∀ a b : Word,
    -48 ≤ addExponent (decodeWord a) (decodeWord b) ∧
    ∀ m : Nat, -48 ≤ (growLoop
      ((shrinkLoop m m (addExponent (decodeWord a) (decodeWord b))).2 + 48).toNat
      (shrinkLoop m m (addExponent (decodeWord a) (decodeWord b))).1
      (shrinkLoop m m (addExponent (decodeWord a) (decodeWord b))).2).2

/-- ADD does not depend on the order of its operands. -/
def Obligations.AddIsCommutative : Prop :=
  ∀ (a b : Word) (s : State), ∃ r,
    exec (.add a b) s = .next { s with out := .value r, illegal := false } ∧
    exec (.add b a) s = .next { s with out := .value r, illegal := false }

/-- Rules R136 and R155: the results those rules list for Infinity, NaN and invalid operand words. -/
def Obligations.SpecialWordsComputeAsTriples : Prop :=
  addWord 0x7F800000 0x40000000 = 0x7F800000 ∧ addWord 0x7F800000 0xFF800000 = 0x00000000 ∧
  addWord 0x7FC00000 0x40000000 = 0x7F800000 ∧
  mulWord 0x7F800000 0x40000000 = 0x7F800000 ∧ mulWord 0x7F800000 0x3C989680 = 0x7F589680 ∧
  mulWord 0x7F800000 0x00000000 = 0x00000000 ∧ mulWord 0x7FC00000 0x40000000 = 0x7F800000 ∧
  mulWord 0x7FC00000 0x00000000 = 0x00000000 ∧
  divWord 0x7F800000 0x7F800000 = 0x40000000 ∧ divWord 0x40000000 0x7F800000 = 0x001D89B7 ∧
  mulWord 0x01312D00 0x40000000 = 0x00000000 ∧ divWord 0x40000000 0x01312D00 = 0x7F800000

/-! ### The multiplier and the divider -/

/-- Rule R150: MUL's three branches. -/
def Obligations.MulReturnsTheTruncatedProduct : Prop :=
  ∀ (a b : Word) (s : State),
    exec (.mul a b) s = .next
      { s with
        out := .value (
          if (decodeWord a).e + (decodeWord b).e < -48 then pack (xorSign a b) 0 0
          else if 47 < (decodeWord a).e + (decodeWord b).e then inf (xorSign a b)
          else finalize (BitVec.ofNat 1 (xorSign a b)) ((decodeWord a).m * (decodeWord b).m / 10 ^ 7)
            ((decodeWord a).e + (decodeWord b).e)),
        illegal := false }

/-- Rules R152 and R153: DIV's result, with Infinity for a zero divisor mantissa. -/
def Obligations.DivReturnsTheTruncatedQuotient : Prop :=
  ∀ (a b : Word) (s : State),
    exec (.div a b) s = .next
      { s with
        out := .value (
          if (decodeWord b).m = 0 then inf (xorSign a b)
          else finalize (BitVec.ofNat 1 (xorSign a b)) ((decodeWord a).m * 10 ^ 7 / (decodeWord b).m)
            ((decodeWord a).e - (decodeWord b).e)),
        illegal := false }

/-- "The product is truncated, never rounded up": no finite MUL result exceeds the exact product's
magnitude. -/
def Obligations.MulNeverExceedsTheExactProduct : Prop :=
  ∀ (a b : Word) (s : State), ∃ r,
    exec (.mul a b) s = .next { s with out := .value r, illegal := false } ∧
    (r = inf (xorSign a b) ∨ |wordValue r| ≤ |wordValue a| * |wordValue b|)

/-- "The quotient is truncated": no finite DIV result exceeds the exact quotient's magnitude. -/
def Obligations.DivNeverExceedsTheExactQuotient : Prop :=
  ∀ (a b : Word) (s : State), ∃ r,
    exec (.div a b) s = .next { s with out := .value r, illegal := false } ∧
    (r = inf (xorSign a b) ∨ |wordValue r| * |wordValue b| ≤ |wordValue a|)

/-- `MUL x, ONE` = x for every valid word x, either way round. -/
def Obligations.MulByOneIsIdentity : Prop :=
  ∀ (x : Word) (s : State), isValidWord x = true →
    exec (.mul x oneWord) s = .next { s with out := .value x, illegal := false } ∧
    exec (.mul oneWord x) s = .next { s with out := .value x, illegal := false }

/-- MUL is commutative for all words. -/
def Obligations.MulIsCommutative : Prop :=
  ∀ (a b : Word) (s : State), ∃ r,
    exec (.mul a b) s = .next { s with out := .value r, illegal := false } ∧
    exec (.mul b a) s = .next { s with out := .value r, illegal := false }

/-- Rule R151: MUL's widths, its at most two shrinking passes, the word of a zero product, and that
its growing loop stops at the floor. -/
def Obligations.MulWidths : Prop :=
  (∀ a b : Word,
    (decodeWord a).m * (decodeWord b).m ≤ 10723520179733761 ∧
    (decodeWord a).m * (decodeWord b).m < 2 ^ 54 ∧
    (decodeWord a).m * (decodeWord b).m / 10 ^ 7 ≤ 1072352017 ∧
    (decodeWord a).m * (decodeWord b).m / 10 ^ 7 < 2 ^ 31 ∧
    ∀ e : Int, (shrinkLoop 2 ((decodeWord a).m * (decodeWord b).m / 10 ^ 7) e).1 ≤ 99999999) ∧
  (∀ (s : SignBit) (e : Int), finalize s 0 e = pack s.toNat 0 0) ∧
  (∀ (n m : Nat) (e : Int), -48 ≤ e → -48 ≤ (growLoop n m e).2)

/-- Rule R154: DIV's widths, the passes of its loops, and its exponents before finalisation. -/
def Obligations.DivWidths : Prop :=
  ∀ a b : Word,
    (decodeWord a).m * 10 ^ 7 ≤ 1035544310000000 ∧ (decodeWord a).m * 10 ^ 7 < 2 ^ 50 ∧
    ((decodeWord b).m ≠ 0 → 10 ≤ (decodeWord b).m) ∧
    (decodeWord a).m * 10 ^ 7 / (decodeWord b).m ≤ 103554431000000 ∧
    (decodeWord a).m * 10 ^ 7 / (decodeWord b).m < 2 ^ 47 ∧
    (∀ e : Int, (shrinkLoop 7 ((decodeWord a).m * 10 ^ 7 / (decodeWord b).m) e).1 ≤ 99999999) ∧
    (∀ (q : Nat) (e : Int), 1 ≤ q → 10000000 ≤ (growLoop 7 q e).1 ∨ (growLoop 7 q e).2 ≤ -48) ∧
    (∀ (s : SignBit) (e : Int), finalize s 0 e = pack s.toNat 0 0) ∧
    -96 ≤ (decodeWord a).e - (decodeWord b).e ∧ (decodeWord a).e - (decodeWord b).e ≤ 96

/-! ### The bridge -/

/-- Rules R171 and R172: every entry of the power-of-two tables is the value its formula gives, and
exactly the entries x = 8 and x = 9 are ties. -/
def Obligations.PowerOfTwoTablesFollowTheirFormulas : Prop :=
  ∀ x : Int, -179 ≤ x → x ≤ 159 →
    (10 : ℚ) ^ romPow2Exp x ≤ (2 : ℚ) ^ (x - 22) ∧
    (2 : ℚ) ^ (x - 22) < (10 : ℚ) ^ (romPow2Exp x + 1) ∧
    (romPow2 x : Int) = ⌊(2 : ℚ) ^ (x - 22) * (10 : ℚ) ^ (8 - romPow2Exp x) + 1 / 2⌋ ∧
    100000000 ≤ romPow2 x ∧ romPow2 x ≤ 999999999 ∧
    ((romPow2 x : ℚ) - (2 : ℚ) ^ (x - 22) * (10 : ℚ) ^ (8 - romPow2Exp x) = 1 / 2
      ↔ x = 8 ∨ x = 9)

/-- Rule R181: every entry of the power-of-ten table is a finite binary64 value, no finite value lies
nearer to `10^e`, a tie goes to the even fraction, and the entries for e = 0..22 are exact. -/
def Obligations.PowerOfTenTableIsNearest : Prop :=
  ∀ e : Int, -54 ≤ e → e ≤ 47 →
    f64Exp (romPow10 e) ≠ 2047 ∧
    (∀ y : Binary64, f64Exp y ≠ 2047 → y ≠ romPow10 e →
      |f64Value (romPow10 e) - (10 : ℚ) ^ e| < |f64Value y - (10 : ℚ) ^ e| ∨
      (|f64Value (romPow10 e) - (10 : ℚ) ^ e| = |f64Value y - (10 : ℚ) ^ e| ∧
        f64Frac (romPow10 e) % 2 = 0)) ∧
    (0 ≤ e → e ≤ 22 → f64Value (romPow10 e) = (10 : ℚ) ^ e)

/-- Rules R173, R174 and R175: the word F2D returns for every binary64 pattern. -/
def Obligations.F2dReturnsTheConvertedWord : Prop :=
  ∀ (f : Binary64) (s : State),
    exec (.f2d f) s = .next
      { s with
        out := .word (convertedWord (f.toNat / 2 ^ 63) (f.toNat / 2 ^ 52 % 2 ^ 11) (f.toNat % 2 ^ 52)),
        illegal := false }

/-- Rule R176: F2D's widths, for every value the tables serve. -/
def Obligations.F2dWidths : Prop :=
  ∀ f : Binary64, f2dInRange f = true →
    2 ^ 52 + f64Frac f < 2 ^ 53 ∧
    f2dRescaled f < 2 ^ 23 ∧
    f2dRescaled f * romPow2 (f64Unbiased f) ≤ 8388607 * 995682444 ∧
    f2dRescaled f * romPow2 (f64Unbiased f) < 2 ^ 53 ∧
    f2dMagnitude f ≤ 835238872 ∧ f2dMagnitude f < 2 ^ 30 ∧
    -55 ≤ romPow2Exp (f64Unbiased f) + 6 ∧ romPow2Exp (f64Unbiased f) + 6 ≤ 47

/-- Rule R182: D2F's result for every word. -/
def Obligations.D2fReturnsTheRoundedProducts : Prop :=
  ∀ (w : Word) (s : State),
    exec (.d2f w) s = .next
      { s with
        out := .binary (
          if (decodeWord w).e < -54 ∨ 47 < (decodeWord w).e then
            BitVec.ofNat 64 (fieldS w * 2 ^ 63 + 0x7FF8000000000000)
          else fp64Mul (fp64Mul (f64OfSigned (decodeWord w).s (decodeWord w).m)
            (romPow10 (decodeWord w).e)) 0x3E7AD7F29ABCAF48),
        illegal := false }

/-- The first factor of rule R182 is exact, and carries the sign of a zero. -/
def Obligations.D2fSignificandIsExact : Prop :=
  ∀ (s : SignBit) (m : Nat), m < 2 ^ 53 →
    f64Exp (f64OfSigned s m) ≠ 2047 ∧ f64Sign (f64OfSigned s m) = s ∧
    f64Value (f64OfSigned s m) = signFactor s * m

/-- Rule R183: the words that leave the power-of-ten table are those with E = 63 and
F >= 30,000,000, their exponent is 48, and D2F answers the quiet NaN of their sign; the entries
e = -54..-49 are never read. -/
def Obligations.D2fLeavesTheTableOnlyAtExponentFortyEight : Prop :=
  ∀ w : Word,
    ((decodeWord w).e < -54 ∨ 47 < (decodeWord w).e ↔ fieldE w = 63 ∧ 30000000 ≤ fieldF w) ∧
    (fieldE w = 63 ∧ 30000000 ≤ fieldF w →
      (decodeWord w).e = 48 ∧
      d2fBits w = BitVec.ofNat 64 (fieldS w * 2 ^ 63 + 0x7FF8000000000000)) ∧
    -48 ≤ (decodeWord w).e

/-- No binary64 overflow or underflow occurs in D2F: inside the table its result is a normal number
with the word's sign, or a zero of that sign where the decoded mantissa is 0. The decoded exponent 48,
outside the table, is `D2fLeavesTheTableOnlyAtExponentFortyEight`. -/
def Obligations.D2fNeverOverflowsOrUnderflows : Prop :=
  ∀ w : Word, (decodeWord w).e ≤ 47 →
    f64Sign (d2fBits w) = signOf w ∧
    ((decodeWord w).m ≠ 0 → f64Class (d2fBits w) = .normal) ∧
    ((decodeWord w).m = 0 → d2fBits w = BitVec.ofNat 64 (fieldS w * 2 ^ 63))

/-- `fp64_mul` rounds to nearest, ties to even: no finite binary64 value lies nearer to the exact
product of two finite operands than a finite result, and on a tie the result's fraction is even. That
the multiplication is IEEE 754's in its default rounding rests on log entry 5 (PRESUMED, unsafe): the
spec marks it as general knowledge. Products that overflow (log entry 5), and Infinity and NaN
operands, whose product is a free value (log entry 6), are left out. -/
def Obligations.Fp64MulRoundsToNearestEven : Prop :=
  ∀ x y : Binary64, f64Exp x ≠ 2047 → f64Exp y ≠ 2047 → f64Exp (fp64Mul x y) ≠ 2047 →
    ∀ z : Binary64, f64Exp z ≠ 2047 →
      |f64Value (fp64Mul x y) - f64Value x * f64Value y|
        < |f64Value z - f64Value x * f64Value y| ∨
      f64Value z = f64Value (fp64Mul x y) ∨
      (|f64Value (fp64Mul x y) - f64Value x * f64Value y|
          = |f64Value z - f64Value x * f64Value y| ∧
        f64Frac (fp64Mul x y) % 2 = 0)

/-- The values that rule R178 names come back exactly from F2D and D2F, and 0.1 does not. -/
def Obligations.BridgeReturnsSmallNumbersExactly : Prop :=
  d2fBits (f2dWord 0x3FF0000000000000) = 0x3FF0000000000000 ∧
  d2fBits (f2dWord 0x4000000000000000) = 0x4000000000000000 ∧
  d2fBits (f2dWord 0x4008000000000000) = 0x4008000000000000 ∧
  d2fBits (f2dWord 0xBFF8000000000000) = 0xBFF8000000000000 ∧
  d2fBits (f2dWord 0x412E848000000000) = 0x412E848000000000 ∧
  f2dWord 0x3FB999999999999A = 0x39C9C37A

/-! ### The renderer -/

/-- Rules R190 and R191: the 15 bytes FMT drives for every word. -/
def Obligations.FmtDrivesTheRuleBytes : Prop :=
  ∀ (w : Word) (s : State),
    exec (.fmt w) s = .next
      { s with
        out := .text (
          if w.toNat % 2 ^ 31 = 0x7F800000 then infinityText (signCode (fieldS w = 1))
          else if (decodeWord w).e = 47 ∧ 50000000 < (decodeWord w).m then nanText
          else if 30000000 ≤ fieldF w then nanText
          else if (fieldE w ≤ 13 ∨ 50 ≤ fieldE w) ∧ (decodeWord w).e ≠ -48 ∧
            fieldF w % 10 ^ 7 < 1000000 then nanText
          else genericBytes (fieldS w) (decodeWord w).m (decodeWord w).e),
        illegal := false }

/-- Which words render how, by the fields alone; no word is left out. The rows are those of rule R192,
and one that its table lacks: `E = 0`, `10^7 <= F < 30,000,000` with `F mod 10^7 >= 1,000,000`. That
these words render as generic text and are valid is the model's inference from the checks of rule R190
(log entry 9, DEDUCED, unsafe). -/
def Obligations.FmtClassifiesWordsByTheirFields : Prop :=
  ∀ (w : Word) (s : State), ∃ t,
    exec (.fmt w) s = .next { s with out := .text t, illegal := false } ∧
    (fieldE w = 63 ∧ fieldF w = 25165824 → t = infinityText (signCode (fieldS w = 1))) ∧
    ((fieldE w = 63 ∧ 25000000 < fieldF w ∧ fieldF w ≠ 25165824) ∨ 30000000 ≤ fieldF w ∨
      (((1 ≤ fieldE w ∧ fieldE w ≤ 13) ∨ 50 ≤ fieldE w) ∧ fieldF w % 10 ^ 7 < 1000000) ∨
      (fieldE w = 0 ∧ 10 ^ 7 ≤ fieldF w ∧ fieldF w % 10 ^ 7 < 1000000) → t = nanText) ∧
    ((fieldE w = 0 ∧ fieldF w < 10 ^ 7) ∨
      (14 ≤ fieldE w ∧ fieldE w ≤ 49 ∧ fieldF w < 30000000) ∨
      (fieldE w ≠ 0 ∧ (fieldE w ≤ 13 ∨ 50 ≤ fieldE w) ∧ 1000000 ≤ fieldF w % 10 ^ 7 ∧
        fieldF w < 30000000 ∧ (fieldE w = 63 → fieldF w ≤ 25000000)) ∨
      (fieldE w = 0 ∧ 10 ^ 7 ≤ fieldF w ∧ fieldF w < 30000000 ∧ 1000000 ≤ fieldF w % 10 ^ 7) →
      t = genericBytes (fieldS w) (decodeWord w).m (decodeWord w).e ∧ isValidWord w = true)

/-- Two valid words never render alike: the text determines the word. -/
def Obligations.FmtTextDeterminesTheValidWord : Prop :=
  ∀ (v w : Word) (s : State) (t : State), isValidWord v = true → isValidWord w = true →
    exec (.fmt v) s = .next t → exec (.fmt w) s = .next t → v = w

/-! ### Whole-machine invariants -/

/-- Every step leaves results in the ranges that the units' rules give them. -/
def Obligations.StepKeepsResultsInRange : Prop :=
  ∀ s t : State, ResultsInRange s → step s = .next t → ResultsInRange t

/-- The reset state's results are in range. They follow from the input ports at reset, which stand at 0
by the model's own choice (log entry 1, DESIGN CHOICE). -/
def Obligations.ResetResultsAreInRange : Prop :=
  ResultsInRange State.reset

/-! ### The host's side -/

/-- Rule R43: a word comes back from its four stored bytes in either byte order, so also in the open
order `WORD_BYTE_ORDER`, whichever it is; the two orders are each other's reverse. -/
def Obligations.StoredWordsComeBack : Prop :=
  (∀ (o : ByteOrder) (w : Word), wordOfBytes o (wordToBytes o w) = w) ∧
  (∀ w : Word, wordOfBytes Config.wordByteOrder (storedWord w) = w) ∧
  (∀ w : Word, (wordToBytes .little w).toList = (wordToBytes .big w).toList.reverse) ∧
  (∀ w : Word, (wordToBytes .big w)[0].toNat = w.toNat / 2 ^ 24)

/-- Every command of rule R62 is named by its mnemonic and the spellings of its operands (rule R69). The
second clause is the model's own choice and no rule of the spec (log entry 14, DESIGN CHOICE): the four
names that the opcode table gives the reserved rows, `RESERVED_C` to `RESERVED_F`, without operands,
answer `unknownName`. -/
def Obligations.SpeltCommandsAssemble : Prop :=
  (∀ i : Instr, i.wellFormed = true → assemble (mnemonicOf i) (spellingsOf i) = .ok i) ∧
  (∀ i : Instr, i.wellFormed = false →
    assemble (mnemonicOf i) (spellingsOf i) = .error .unknownName)

/-- Rule R70: the pseudo-commands and their expansions. -/
def Obligations.PseudoCommandsExpand : Prop :=
  (∀ (a b : Word) (s : State), exec (.sub a b) s = exec (.add a (negWord b)) s) ∧
  (∀ (sign : SignBit) (lead : LeadBits) (trail : TrailBits) (exp : ExpBits) (s : State),
    lead.toNat ≤ 9 → trail.toNat ≤ 9999999 →
    exec (.encd sign lead trail exp) s =
      exec (.encm sign (BitVec.ofNat 27 (lead.toNat * 10 ^ 7 + trail.toNat)) exp) s) ∧
  (∀ (lead : LeadBits) (trail : TrailBits) (exp : ExpBits), lead ≠ 0 →
    assembleMkdigits (-(lead.toNat : Int)) trail.toNat exp.toInt = .ok (.encd 1 lead trail exp)) ∧
  (∀ (lead : LeadBits) (trail : TrailBits) (exp : ExpBits),
    assembleMkdigits lead.toNat trail.toNat exp.toInt = .ok (.encd 0 lead trail exp)) ∧
  oneWord = 0x40000000

/-- The units on their ports: `sel` and `mode` choose the form, and the ports a form does not name are
ignored. -/
def Obligations.UnitsSelectTheirForms : Prop :=
  (∀ sign mant8 lead trail exp,
    encoderUnit 0#1 sign mant8 lead trail exp = encmWord sign mant8 exp ∧
    encoderUnit 1#1 sign mant8 lead trail exp = encdWord sign lead trail exp) ∧
  (∀ a b : Word,
    adderUnit 0b00#2 a b = addWord a b ∧ adderUnit 0b01#2 a b = subWord a b ∧
    adderUnit 0b10#2 a b = negWord a ∧ adderUnit 0b11#2 a b = 0)
end

