-- ==== Sys2Proof/Laws/Operands.lean ====
section
/-! SUPPORT. The fields of a word and the words built from fields. -/

namespace Sys2Proof.Machine

/-- `E` as arithmetic on the word's number. -/
theorem expField_eq (w : Word) : expField w = w.toNat / 2 ^ 25 % 64 := by
  simp [expField, BitVec.extractLsb'_toNat, Nat.shiftRight_eq_div_pow]

/-- `F` as arithmetic on the word's number. -/
theorem mantField_eq (w : Word) : mantField w = w.toNat % 2 ^ 25 := by
  simp [mantField, BitVec.extractLsb'_toNat]

/-- The sign as arithmetic on the word's number. -/
theorem signOf_toNat (w : Word) : (signOf w).toNat = w.toNat / 2 ^ 31 := by
  have := w.isLt
  simp [signOf, BitVec.extractLsb'_toNat, Nat.shiftRight_eq_div_pow]
  omega

theorem expField_lt (w : Word) : expField w < 64 :=
  (w.extractLsb' 25 6).isLt

theorem mantField_lt (w : Word) : mantField w < 2 ^ 25 :=
  (w.extractLsb' 0 25).isLt

/-- The number of a word built from fields that fit. -/
theorem mkWord_toNat (s : SignBit) {E F : Nat} (hE : E < 64) (hF : F < 2 ^ 25) :
    (mkWord s E F).toNat = s.toNat * 2 ^ 31 + E * 2 ^ 25 + F := by
  simp only [mkWord, BitVec.toNat_append, BitVec.toNat_ofNat]
  rw [Nat.mod_eq_of_lt hE, Nat.mod_eq_of_lt hF, ← Nat.shiftLeft_add_eq_or_of_lt hF,
    ← Nat.shiftLeft_add_eq_or_of_lt hE, Nat.shiftLeft_eq, Nat.shiftLeft_eq]
  omega

@[simp] theorem signOf_mkWord (s : SignBit) {E F : Nat} (hE : E < 64) (hF : F < 2 ^ 25) :
    signOf (mkWord s E F) = s := by
  have hs := s.isLt
  apply BitVec.eq_of_toNat_eq
  rw [signOf_toNat, mkWord_toNat s hE hF]
  omega

@[simp] theorem expField_mkWord (s : SignBit) {E F : Nat} (hE : E < 64) (hF : F < 2 ^ 25) :
    expField (mkWord s E F) = E := by
  rw [expField_eq, mkWord_toNat s hE hF]
  omega

@[simp] theorem mantField_mkWord (s : SignBit) {E F : Nat} (hE : E < 64) (hF : F < 2 ^ 25) :
    mantField (mkWord s E F) = F := by
  rw [mantField_eq, mkWord_toNat s hE hF]
  omega

/-- A word is its three fields (rule R21). -/
theorem mkWord_fields (w : Word) : mkWord (signOf w) (expField w) (mantField w) = w := by
  have hw := w.isLt
  apply BitVec.eq_of_toNat_eq
  rw [mkWord_toNat _ (expField_lt w) (mantField_lt w), signOf_toNat, expField_eq, mantField_eq]
  omega

end Sys2Proof.Machine
end

