-- ==== Sys2Proof/Laws/Codec.lean ====
section
/-! SUPPORT. Everything the decoder and the encoder can answer, once. -/

namespace Sys2Proof.Machine

@[simp] theorem decodeWord_s (w : Word) : (decodeWord w).s = signOf w := by
  simp only [decodeWord]
  split <;> rfl

/-- Rule R101 in Region A. -/
theorem decodeWord_regionA {w : Word} (h1 : 14 ≤ expField w) (h2 : expField w ≤ 49) :
    decodeWord w = ⟨signOf w, mantField w + (1 + 3 * ((expField w - 14) % 3)) * 10 ^ 7,
      ((expField w - 14) / 3 : Nat) - 6⟩ := by
  have hr : regionOf (expField w) = .a := by
    rw [regionOf, if_neg (by omega), if_pos h2]
  simp only [decodeWord, hr]

/-- Rule R101 in Region B, low. -/
theorem decodeWord_regionBLow {w : Word} (h : expField w ≤ 13) :
    decodeWord w = ⟨signOf w, 10 * (mantField w % 10 ^ 7),
      3 * ((expField w : Int) - 16) + (mantField w / 10 ^ 7 : Nat)⟩ := by
  have hr : regionOf (expField w) = .bLow := by rw [regionOf, if_pos h]
  simp only [decodeWord, hr]

/-- Rule R101 in Region B, high. -/
theorem decodeWord_regionBHigh {w : Word} (h : 50 ≤ expField w) :
    decodeWord w = ⟨signOf w, 10 * (mantField w % 10 ^ 7),
      3 * ((expField w : Int) - 48) + (mantField w / 10 ^ 7 : Nat)⟩ := by
  have hr : regionOf (expField w) = .bHigh := by
    rw [regionOf, if_neg (by omega), if_neg (by omega)]
  simp only [decodeWord, hr]

/-- The three regions of rule R24 leave no word out. -/
theorem region_cases (w : Word) :
    expField w ≤ 13 ∨ (14 ≤ expField w ∧ expField w ≤ 49) ∨ 50 ≤ expField w := by
  omega

/-- Rule R104: outside the domain's ranges the encoder answers the canonical NaN. -/
theorem encodeTriple_outside {s : SignBit} {m : Nat} {e : Int}
    (h : 99999999 < m ∨ e < -48 ∨ 47 < e) : encodeTriple s m e = qnanWord s := by
  simp only [encodeTriple, if_pos h]

/-- Rule R104: so it does for a leading digit 0 in Region A. -/
theorem encodeTriple_regionA_zero {s : SignBit} {m : Nat} {e : Int} (hm : m < 10 ^ 7)
    (h1 : -6 ≤ e) (h2 : e ≤ 5) : encodeTriple s m e = qnanWord s := by
  have hL : m / 10 ^ 7 = 0 := by omega
  rw [encodeTriple, if_neg (by omega), if_pos ⟨h1, h2⟩]
  simp only [hL, if_true]

/-- Rule R103 in Region A. -/
theorem encodeTriple_regionA {s : SignBit} {m : Nat} {e : Int} (h0 : 10 ^ 7 ≤ m)
    (hm : m ≤ 99999999) (h1 : -6 ≤ e) (h2 : e ≤ 5) :
    encodeTriple s m e = mkWord s (14 + 3 * (e + 6).toNat + (m / 10 ^ 7 - 1) / 3)
      (m - (1 + 3 * ((m / 10 ^ 7 - 1) / 3)) * 10 ^ 7) := by
  have hL : m / 10 ^ 7 ≠ 0 := by omega
  rw [encodeTriple, if_neg (by omega), if_pos ⟨h1, h2⟩]
  simp only [if_neg hL]

/-- Rule R103 in Region B, low. -/
theorem encodeTriple_regionBLow {s : SignBit} {m : Nat} {e : Int} (hm : m ≤ 99999999)
    (h1 : -48 ≤ e) (h2 : e ≤ -7) :
    encodeTriple s m e = mkWord s (16 + e / 3).toNat ((e % 3).toNat * 10 ^ 7 + m / 10) := by
  rw [encodeTriple, if_neg (by omega), if_neg (by omega)]
  simp only [if_pos h2]

/-- Rule R103 in Region B, high. -/
theorem encodeTriple_regionBHigh {s : SignBit} {m : Nat} {e : Int} (hm : m ≤ 99999999)
    (h1 : 6 ≤ e) (h2 : e ≤ 47) :
    encodeTriple s m e = mkWord s (48 + e / 3).toNat ((e % 3).toNat * 10 ^ 7 + m / 10) := by
  rw [encodeTriple, if_neg (by omega), if_neg (by omega)]
  simp only [if_neg (show ¬ e ≤ -7 by omega)]

end Sys2Proof.Machine
end

