-- ==== Sys2Proof/Laws/Finalize.lean ====
section
/-! SUPPORT. The loops of rule R131 end where their conditions do: the bounds on their passes are
enough. -/

namespace Sys2Proof.Machine

/-- Shrinking within `m` passes leaves at most 8 digits. -/
theorem shrinkLoop_ends (n m : Nat) (e : Int) (h : m ≤ n) : (shrinkLoop n m e).1 ≤ 99999999 := by
  induction n generalizing m e with
  | zero => simp only [shrinkLoop]; omega
  | succ n ih =>
    simp only [shrinkLoop]
    split
    · exact ih _ _ (by omega)
    · omega

/-- Growing within `e + 48` passes leaves 8 digits or the floor exponent. -/
theorem growLoop_ends (n m : Nat) (e : Int) (h : e + 48 ≤ n) :
    10000000 ≤ (growLoop n m e).1 ∨ (growLoop n m e).2 ≤ -48 := by
  induction n generalizing m e with
  | zero => simp only [growLoop]; omega
  | succ n ih =>
    simp only [growLoop]
    split
    · exact ih _ _ (by omega)
    · omega

/-- Denormalising within `-48 - e` passes leaves an exponent at or above the floor. -/
theorem denormLoop_ends (n m : Nat) (e : Int) (h : -48 - e ≤ n) :
    -48 ≤ (denormLoop n m e).2 := by
  induction n generalizing m e with
  | zero => simp only [denormLoop]; omega
  | succ n ih =>
    simp only [denormLoop]
    split
    · exact ih _ _ (by omega)
    · omega

/-- A pass that the loop's condition does not ask for is never made. -/
theorem shrinkLoop_done (n : Nat) {m : Nat} (e : Int) (h : m ≤ 99999999) :
    shrinkLoop n m e = (m, e) := by
  cases n with
  | zero => rfl
  | succ n => rw [shrinkLoop, if_neg (by omega)]

theorem growLoop_done (n : Nat) {m : Nat} {e : Int} (h : 10000000 ≤ m ∨ e ≤ -48) :
    growLoop n m e = (m, e) := by
  cases n with
  | zero => rfl
  | succ n => rw [growLoop, if_neg (by omega)]

theorem denormLoop_done (n m : Nat) {e : Int} (h : -48 ≤ e) : denormLoop n m e = (m, e) := by
  cases n with
  | zero => rfl
  | succ n => rw [denormLoop, if_neg (by omega)]

/-- Everything `finalize` can answer: the Infinity word where the normalised pair overflows, and the
encoding of that pair otherwise. -/
theorem finalize_cases (s : SignBit) (m : Nat) (e : Int) :
    (overflows (runLoops m e).1 (runLoops m e).2 = true ∧ finalize s m e = infWord s) ∨
    (overflows (runLoops m e).1 (runLoops m e).2 = false ∧
      finalize s m e = encodeTriple s (runLoops m e).1 (runLoops m e).2) := by
  cases h : overflows (runLoops m e).1 (runLoops m e).2 with
  | true => exact .inl ⟨rfl, by simp only [finalize, h, if_true]⟩
  | false => exact .inr ⟨rfl, by simp only [finalize, h, if_neg Bool.false_ne_true]⟩

end Sys2Proof.Machine
end

