-- ==== Sys2Proof/Laws/PerInstr.lean ====
section
/-! SUPPORT. Families of statements about commands as syntax, one lemma per constructor. -/

namespace Sys2Proof.Laws

/-- The op code port of an encoded command carries the op code of its row (rule R62), and it is one of
the reserved codes exactly where the command is not well formed (rule R64). -/
def OpSelects.Statement (i : Instr) : Prop :=
  (encode i).op = i.opcode ∧ (i.wellFormed = false ↔ 0xC ≤ (encode i).op.toNat)

theorem OpSelects.encm (sign : SignBit) (mant8 : MantBits) (exp : ExpBits) :
    OpSelects.Statement (.encm sign mant8 exp) := ⟨rfl, by simp [encode, Instr.wellFormed, Instr.opcode]⟩
theorem OpSelects.encd (sign : SignBit) (lead : LeadBits) (trail : TrailBits) (exp : ExpBits) :
    OpSelects.Statement (.encd sign lead trail exp) :=
  ⟨rfl, by simp [encode, Instr.wellFormed, Instr.opcode]⟩
theorem OpSelects.dec (w : Word) : OpSelects.Statement (.dec w) :=
  ⟨rfl, by simp [encode, Instr.wellFormed, Instr.opcode]⟩
theorem OpSelects.shift (x : ShiftData) (amt : AmtBits) : OpSelects.Statement (.shift x amt) :=
  ⟨rfl, by simp [encode, Instr.wellFormed, Instr.opcode]⟩
theorem OpSelects.add (a b : Word) : OpSelects.Statement (.add a b) :=
  ⟨rfl, by simp [encode, Instr.wellFormed, Instr.opcode]⟩
theorem OpSelects.sub (a b : Word) : OpSelects.Statement (.sub a b) :=
  ⟨rfl, by simp [encode, Instr.wellFormed, Instr.opcode]⟩
theorem OpSelects.neg (a : Word) : OpSelects.Statement (.neg a) :=
  ⟨rfl, by simp [encode, Instr.wellFormed, Instr.opcode]⟩
theorem OpSelects.mul (a b : Word) : OpSelects.Statement (.mul a b) :=
  ⟨rfl, by simp [encode, Instr.wellFormed, Instr.opcode]⟩
theorem OpSelects.div (a b : Word) : OpSelects.Statement (.div a b) :=
  ⟨rfl, by simp [encode, Instr.wellFormed, Instr.opcode]⟩
theorem OpSelects.f2d (f : Binary64) : OpSelects.Statement (.f2d f) :=
  ⟨rfl, by simp [encode, Instr.wellFormed, Instr.opcode]⟩
theorem OpSelects.d2f (w : Word) : OpSelects.Statement (.d2f w) :=
  ⟨rfl, by simp [encode, Instr.wellFormed, Instr.opcode]⟩
theorem OpSelects.fmt (w : Word) : OpSelects.Statement (.fmt w) :=
  ⟨rfl, by simp [encode, Instr.wellFormed, Instr.opcode]⟩
theorem OpSelects.reservedC : OpSelects.Statement .reservedC := ⟨rfl, by decide⟩
theorem OpSelects.reservedD : OpSelects.Statement .reservedD := ⟨rfl, by decide⟩
theorem OpSelects.reservedE : OpSelects.Statement .reservedE := ⟨rfl, by decide⟩
theorem OpSelects.reservedF : OpSelects.Statement .reservedF := ⟨rfl, by decide⟩

end Sys2Proof.Laws
end

