-- ==== Sys2Proof/Laws/State.lean ====
section
/-! SUPPORT. One lemma per field of `State` and update of it. -/

namespace Sys2Proof.Machine

@[simp] theorem State.drive_ins (s : State) (op : OpBits) (r : Results) :
    (s.drive op r).ins = s.ins := rfl
@[simp] theorem State.drive_out (s : State) (op : OpBits) (r : Results) :
    (s.drive op r).out = r := rfl
@[simp] theorem State.drive_illegal (s : State) (op : OpBits) (r : Results) :
    (s.drive op r).illegal = illegalStrobe op := rfl
@[simp] theorem State.present_ins (s : State) (i : Instr) : (s.present i).ins = encode i := rfl
@[simp] theorem State.present_out (s : State) (i : Instr) : (s.present i).out = s.out := rfl
@[simp] theorem State.present_illegal (s : State) (i : Instr) :
    (s.present i).illegal = s.illegal := rfl
@[simp] theorem State.withFetchWord_ins (s : State) (nbits w : Nat) :
    (s.withFetchWord nbits w).ins = unpackPorts (imageOfTableWord nbits w) := rfl
@[simp] theorem State.withFetchWord_out (s : State) (nbits w : Nat) :
    (s.withFetchWord nbits w).out = s.out := rfl
@[simp] theorem State.withFetchWord_illegal (s : State) (nbits w : Nat) :
    (s.withFetchWord nbits w).illegal = s.illegal := rfl

/-- Driving the results of an invocation, field by field. -/
theorem State.drive_eq (s : State) (op : OpBits) (r : Results) :
    s.drive op r = { ins := s.ins, out := r, illegal := illegalStrobe op } := rfl

end Sys2Proof.Machine
end

