-- ==== Sys2Proof/Laws/Units.lean ====
section
/-! SUPPORT. Everything the shifter, the adder, the multiplier, the divider, the converters and the
renderer can answer, once each. -/

namespace Sys2Proof.Machine

/-- Rule R120: the shifter's three branches. -/
theorem shiftMagnitude_cases (x : Nat) (k : Int) :
    (k < 0 ∧ (k < -8 ∨ x = 0) ∧ shiftMagnitude x k = 0) ∨
    (k < 0 ∧ -8 ≤ k ∧ shiftMagnitude x k = x / 10 ^ (-k).toNat) ∨
    (0 ≤ k ∧ shiftMagnitude x k = x * 10 ^ k.toNat % 2 ^ 32) := by
  simp only [shiftMagnitude]
  split
  · split
    · exact .inl ⟨‹_›, ‹_›, rfl⟩
    · exact .inr (.inl ⟨‹_›, by omega, rfl⟩)
  · exact .inr (.inr ⟨by omega, rfl⟩)

/-- Rule R132: a sum of equal signs, a difference of differing ones, or an exact cancellation. -/
theorem combine_cases (s1 : SignBit) (m1 : Nat) (s2 : SignBit) (m2 : Nat) :
    (s1 = s2 ∧ combine s1 m1 s2 m2 = (m1 + m2, s1)) ∨
    (s1 ≠ s2 ∧ m2 < m1 ∧ combine s1 m1 s2 m2 = (m1 - m2, s1)) ∨
    (s1 ≠ s2 ∧ m1 < m2 ∧ combine s1 m1 s2 m2 = (m2 - m1, s2)) ∨
    (s1 ≠ s2 ∧ m1 = m2 ∧ combine s1 m1 s2 m2 = (0, 0#1)) := by
  simp only [combine, magdiff]
  split
  · exact .inl ⟨‹_›, rfl⟩
  · split
    · exact .inr (.inl ⟨‹_›, ‹_›, rfl⟩)
    · split
      · exact .inr (.inr (.inl ⟨‹_›, ‹_›, rfl⟩))
      · exact .inr (.inr (.inr ⟨‹_›, by omega, rfl⟩))

/-- Rule R132: ADD on operands of equal exponents. -/
theorem addWord_equal {a b : Word} (h : (decodeWord a).e = (decodeWord b).e) :
    addWord a b =
      finalize (combine (decodeWord a).s (decodeWord a).m (decodeWord b).s (decodeWord b).m).2
        (combine (decodeWord a).s (decodeWord a).m (decodeWord b).s (decodeWord b).m).1
        (decodeWord a).e := by
  simp only [addWord, if_pos h]

/-- Rule R132: ADD where `a` has the larger exponent. -/
theorem addWord_left {a b : Word} (h : (decodeWord b).e < (decodeWord a).e) :
    addWord a b = addAligned (decodeWord a) (decodeWord b) := by
  simp only [addWord, if_neg (show ¬ (decodeWord a).e = (decodeWord b).e by omega), if_pos h]

/-- Rule R132: ADD where `b` has the larger exponent. -/
theorem addWord_right {a b : Word} (h : (decodeWord a).e < (decodeWord b).e) :
    addWord a b = addAligned (decodeWord b) (decodeWord a) := by
  simp only [addWord, if_neg (show ¬ (decodeWord a).e = (decodeWord b).e by omega),
    if_neg (show ¬ (decodeWord b).e < (decodeWord a).e by omega)]

/-- Rule R150: the three answers of MUL. -/
theorem mulWord_cases (a b : Word) :
    let s := (decodeWord a).s ^^^ (decodeWord b).s
    let e := (decodeWord a).e + (decodeWord b).e
    (e < -48 ∧ mulWord a b = zeroWord s) ∨ (47 < e ∧ mulWord a b = infWord s) ∨
    (-48 ≤ e ∧ e ≤ 47 ∧
      mulWord a b = finalize s ((decodeWord a).m * (decodeWord b).m / 10 ^ 7) e) := by
  simp only [mulWord]
  split
  · exact .inl ⟨‹_›, rfl⟩
  · split
    · exact .inr (.inl ⟨‹_›, rfl⟩)
    · exact .inr (.inr ⟨by omega, by omega, rfl⟩)

/-- Rules R152 and R153: the two answers of DIV. -/
theorem divWord_cases (a b : Word) :
    let s := (decodeWord a).s ^^^ (decodeWord b).s
    ((decodeWord b).m = 0 ∧ divWord a b = infWord s) ∨
    ((decodeWord b).m ≠ 0 ∧
      divWord a b = finalize s ((decodeWord a).m * 10 ^ 7 / (decodeWord b).m)
        ((decodeWord a).e - (decodeWord b).e)) := by
  simp only [divWord]
  split
  · exact .inl ⟨‹_›, rfl⟩
  · exact .inr ⟨‹_›, rfl⟩

/-- Rules R173 to R175: the three answers of F2D. -/
theorem f2dWord_cases (f : Binary64) :
    (f64Class f = .nan ∧ f2dWord f = qnanWord (f64Sign f)) ∨
    (f64Class f ≠ .nan ∧ f2dInRange f = true ∧
      f2dWord f = finalize (f64Sign f) (f2dMagnitude f) (romPow2Exp (f64Unbiased f) + 6)) ∨
    (f64Class f ≠ .nan ∧ f2dInRange f = false ∧ f2dWord f = f2dFallback f) := by
  simp only [f2dWord]
  split
  · exact .inl ⟨‹_›, rfl⟩
  · split
    · exact .inr (.inl ⟨‹_›, ‹_›, rfl⟩)
    · exact .inr (.inr ⟨‹_›, by simpa using ‹¬ f2dInRange f = true›, rfl⟩)

/-- `fp64_mul` of finite operands (rule R12). -/
theorem fp64Mul_finite {x y : Binary64} (hx : f64Exp x ≠ 2047) (hy : f64Exp y ≠ 2047) :
    fp64Mul x y = roundBinary64 (f64Sign x ^^^ f64Sign y) (f64Significand x * f64Significand y)
      (f64Scale x + f64Scale y) := by
  rw [fp64Mul, if_neg (by simp [hx, hy])]

/-- The byte of the text port at `i` (rule R191). -/
theorem textPort_get (t : List Char) (i : Nat) (h : i < 15) :
    (textPort t)[i] = (t.map asciiByte).getD i 0x00#8 := by
  simp [textPort]

/-- Everything a command can do: it drives results and the strobe of its own op code, and nothing
else changes (rules R48 and R62). -/
theorem exec_drives (i : Instr) (s : State) : ∃ r, exec i s = .next (s.drive i.opcode r) := by
  cases i <;> exact ⟨_, rfl⟩

end Sys2Proof.Machine
end

