-- ==== Sys2Proof/Tests/Slice0.lean ====
section
/-! SUPPORT. The model's own tests. Expected results come from spec/95_test_vectors.md and from the rules
cited; the last part shows, for each obligation with hypotheses, inputs that meet them together. -/

namespace Sys2Proof.Tests

open Sys2Proof Sys2Proof.Machine Sys2Proof.Safety Sys2Proof.Spec

/-- The results of one step on a presented command, and the strobe. -/
def runOne (i : Instr) : Option (Results × Bool) :=
  match step (State.reset.present i) with
  | .next t => some (t.out, t.illegal)
  | .fault r => nomatch r
  | .refused _ => none

/-- The word a command returns on `w` or on `r`. -/
def wordResult (i : Instr) : Option Word :=
  match runOne i with
  | some (.word w, false) => some w
  | some (.value r, false) => some r
  | _ => none

/-- The 15 bytes of a text given by its codes. -/
def bytes (l : List Nat) : Vector Byte 15 :=
  Vector.ofFn fun i => BitVec.ofNat 8 (l.getD i.val 0)

/-! ### The checks of WellFormed.lean refuse ill-formed terms -/

theorem test_reserved_not_wellFormed :
    [Instr.reservedC, .reservedD, .reservedE, .reservedF].map Instr.wellFormed
      = [false, false, false, false] := by decide

theorem test_commands_wellFormed :
    [Instr.encm 0 0 0, .encd 0 0 0 0, .dec 0, .shift 0 0, .add 0 0, .sub 0 0, .neg 0, .mul 0 0,
      .div 0 0, .f2d 0, .d2f 0, .fmt 0].all Instr.wellFormed = true := by decide

theorem test_encm_mantissa_too_large : (Instr.encm 0 100000000 0).honoursObligations = false := by
  decide

theorem test_encm_exponent_too_low : (Instr.encm 1 10000000 0xCF).honoursObligations = false := by
  decide

theorem test_encm_exponent_too_high : (Instr.encm 0 10000000 48).honoursObligations = false := by
  decide

theorem test_encm_regionA_leading_zero : (Instr.encm 0 5000000 0).honoursObligations = false := by
  decide

theorem test_encd_lead_too_large : (Instr.encd 0 10 0 0).honoursObligations = false := by decide

theorem test_encd_trail_too_large : (Instr.encd 0 1 10000000 0).honoursObligations = false := by
  decide

theorem test_encd_domain : (Instr.encd 0 0 1234567 0).honoursObligations = false := by decide

theorem test_shift_product_too_large : (Instr.shift 1 10).honoursObligations = false := by decide

/-! ### Commands written out on the port image: op in bits 3..0, then the ports of rule R61 (log
entry 2). Operand values from the programs of 95_test_vectors.md. -/

-- P2: op=0x0; sign=0 mant8=0x0989680 exp=0xFF
theorem test_decode_encm :
    decodeTableWord 268 (0x0 + 0x0989680 * 2 ^ 5 + 0xFF * 2 ^ 60) = some (.encm 0 10000000 0xFF) := by
  decide

-- P1: op=0x1; sign=0 lead=0x3 trail=0x000000 exp=0x03
theorem test_decode_encd :
    decodeTableWord 268 (0x1 + 1 * 2 ^ 4 + 0x3 * 2 ^ 32 + 0x98967F * 2 ^ 36 + 0x03 * 2 ^ 60)
      = some (.encd 1 3 9999999 3) := by
  decide

-- P5: op=0x2; w=0x4023CACE
theorem test_decode_dec :
    decodeTableWord 268 (0x2 + 0x4023CACE * 2 ^ 68) = some (.dec 0x4023CACE) := by
  decide

-- P5: op=0x3; x=12345678 amt=0xFD
theorem test_decode_shift :
    decodeTableWord 268 (0x3 + 12345678 * 2 ^ 100 + 0xFD * 2 ^ 132) = some (.shift 12345678 0xFD) := by
  decide

theorem test_decode_add :
    decodeTableWord 268 (0x4 + 0x40000000 * 2 ^ 140 + 0x40989680 * 2 ^ 172)
      = some (.add 0x40000000 0x40989680) := by
  decide

-- P3: op=0x5; a=0x40000000 b=0x3FC9C376
theorem test_decode_sub :
    decodeTableWord 268 (0x5 + 0x40000000 * 2 ^ 140 + 0x3FC9C376 * 2 ^ 172)
      = some (.sub 0x40000000 0x3FC9C376) := by
  decide

theorem test_decode_neg :
    decodeTableWord 268 (0x6 + 0x7F7D7840 * 2 ^ 140) = some (.neg 0x7F7D7840) := by
  decide

-- P1: op=0x7; a=0x53312D00 b=0x42989680
theorem test_decode_mul :
    decodeTableWord 268 (0x7 + 0x53312D00 * 2 ^ 140 + 0x42989680 * 2 ^ 172)
      = some (.mul 0x53312D00 0x42989680) := by
  decide

-- P3: op=0x8; a=0x40000000 b=0x41312D00
theorem test_decode_div :
    decodeTableWord 268 (0x8 + 0x40000000 * 2 ^ 140 + 0x41312D00 * 2 ^ 172)
      = some (.div 0x40000000 0x41312D00) := by
  decide

-- P4: op=0x9; f=0x3FB999999999999A
theorem test_decode_f2d :
    decodeTableWord 268 (0x9 + 0x3FB999999999999A * 2 ^ 204) = some (.f2d 0x3FB999999999999A) := by
  decide

-- P4: op=0xA; w=0x39C9C37A
theorem test_decode_d2f :
    decodeTableWord 268 (0xA + 0x39C9C37A * 2 ^ 68) = some (.d2f 0x39C9C37A) := by
  decide

-- P1: op=0xB; w=0x584C4B40
theorem test_decode_fmt :
    decodeTableWord 268 (0xB + 0x584C4B40 * 2 ^ 68) = some (.fmt 0x584C4B40) := by
  decide

-- Rule R64: the reserved op codes, with operand bits that are ignored
theorem test_decode_reserved :
    decodeTableWord 8 0xFC = some .reservedC ∧ decodeTableWord 8 0x1D = some .reservedD ∧
    decodeTableWord 8 0x0E = some .reservedE ∧ decodeTableWord 8 0x8F = some .reservedF := by
  decide

/-! ### One step of each command -/

-- L2.1
theorem test_encm : wordResult (.encm 0 98765439 6) = some 0x6496B43F := by decide
theorem test_encm_outside : wordResult (.encm 1 10000000 0xCF) = some 0xFFC00000 := by
  decide
theorem test_encd : wordResult (.encd 1 2 5000000 0xEC) = some 0x92BEBC20 := by decide
theorem test_encd_subnormal : wordResult (.encd 0 0 123456 0xD0) = some 0x00003039 := by
  decide
theorem test_dec : runOne (.dec 0x4BC9C37F) = some (.triple 0 99999999 1, false) := by
  decide
theorem test_dec_regionB : runOne (.dec 0xFFFFFFFF) = some (.triple 1 35544310 48, false) := by
  decide

-- L2.2
theorem test_shift_right : runOne (.shift 4294967295 0xF8) = some (.shifted 42, false) := by
  decide
theorem test_shift_left : runOne (.shift 1 10) = some (.shifted 1410065408, false) := by
  decide

-- L2.3
theorem test_add : wordResult (.add 0x45C9C37F 0x1B406F40) = some 0x46000000 := by decide
theorem test_add_cancel : wordResult (.add 0x00A7D8C0 0x8098967F) = some 0x00000001 := by
  decide
theorem test_sub_guard : wordResult (.sub 0x40000000 0x1AA7D8C0) = some 0x3FC9C37F := by
  decide
theorem test_sub_sign : wordResult (.sub 0x41312D00 0x42989680) = some 0xC0989680 := by
  decide
theorem test_neg : wordResult (.neg 0x7FFFFFFF) = some 0xFFFFFFFF := by decide

-- L2.4
theorem test_mul : wordResult (.mul 0x53312D00 0x42989680) = some 0x584C4B40 := by decide
theorem test_mul_precheck : wordResult (.mul 0x8C0F4240 0x0C0F4240) = some 0x80000000 := by
  decide
theorem test_div : wordResult (.div 0x40000000 0x41312D00) = some 0x3B6409D2 := by decide
theorem test_div_zero : wordResult (.div 0x80000000 0x00000000) = some 0xFF800000 := by
  decide

-- L2.5
theorem test_f2d : wordResult (.f2d 0x3FB999999999999A) = some 0x39C9C37A := by decide
theorem test_f2d_fallback : wordResult (.f2d 0xFFF0000000000000) = some 0xFF800000 := by
  decide
theorem test_d2f : runOne (.d2f 0x00000001) = some (.binary 0x34B8851A0B548EA3, false) := by
  decide
theorem test_d2f_outside : runOne (.d2f 0xFFFFFFFF) = some (.binary 0xFFF8000000000000, false) := by
  decide

-- L2.6, byte images
theorem test_fmt : runOne (.fmt 0x584C4B40) = some (.text (bytes
    [0x2B, 0x31, 0x2E, 0x35, 0x30, 0x30, 0x30, 0x30, 0x30, 0x30, 0x65, 0x2B, 0x30, 0x34]), false) := by
  decide
theorem test_fmt_infinity : runOne (.fmt 0xFF800000) = some (.text (bytes
    [0x2D, 0x49, 0x6E, 0x66, 0x69, 0x6E, 0x69, 0x74, 0x79]), false) := by
  decide

-- L2.7
theorem test_reserved :
    [Instr.reservedC, .reservedD, .reservedE, .reservedF].map runOne
      = List.replicate 4 (some (.zeros, true)) := by
  decide

-- P4: 39 C9 C3 7A or 7A C3 C9 39
theorem test_stored_word :
    wordToBytes .big 0x39C9C37A = #v[0x39, 0xC9, 0xC3, 0x7A] ∧
    wordToBytes .little 0x39C9C37A = #v[0x7A, 0xC3, 0xC9, 0x39] := by
  decide

-- P1, rules R69 and R70: a mnemonic, a synonym, a pseudo-command, and what does not fit
theorem test_assemble :
    assemble "ENCD" [.sign false, .int 3, .int 0, .int 3] = .ok (.encd 0 3 0 3) ∧
    assemble "subtract" [.hex 8 0x40000000, .hex 8 0x3FC9C376]
      = .ok (.sub 0x40000000 0x3FC9C376) ∧
    assembleMkdigits (-3) 25 (-7) = .ok (.encd 1 3 25 0xF9) := by
  decide
theorem test_assemble_refused :
    assemble "ENCD" [.sign false, .int 16, .int 0, .int 3] = .error .badOperands ∧
    assemble "JUMP" [] = .error .unknownName := by
  decide

/-! ### Inputs that meet each obligation's hypotheses -/

theorem witness_UnnamedPortsAreIgnored :
    ∀ op : OpBits, NamedPortsAgree { Ports.zero with op := op, b := 1, f := 1 }
      { Ports.zero with
        op := op, f := if op = 0x9 then 1 else 2, w := if op = 0x9 then 3 else 0,
        b := if op = 0x4 ∨ op = 0x5 ∨ op = 0x7 ∨ op = 0x8 then 1 else 4 } := by
  unfold NamedPortsAgree
  decide

theorem witness_StepRunsTheDecodedCommand :
    decode State.reset.ins = .encm 0 0 0 ∧ decodeTableWord 8 0xC = some .reservedC := by
  decide

theorem witness_IllegalStrobe_reserved :
    step (State.reset.present .reservedC)
      = .next { State.reset.present .reservedC with out := .zeros, illegal := true } := rfl

theorem witness_IllegalStrobe_command :
    step (State.reset.present (.shift 0 0))
      = .next { State.reset.present (.shift 0 0) with out := .shifted 0, illegal := false } := rfl

theorem witness_InvocationsHaveNoSideEffects :
    State.reset.ins = { State.reset with out := .zeros, illegal := true }.ins ∧
    State.reset ≠ { State.reset with out := .zeros, illegal := true } ∧
    step (State.reset.present .reservedC)
      = .next { State.reset.present .reservedC with out := .zeros, illegal := true } :=
  ⟨rfl, by decide, rfl⟩

theorem witness_InvocationsDoNotDependOnOrder :
    step (State.reset.present (.neg 1))
      = .next { State.reset.present (.neg 1) with out := .value 0x80000001, illegal := false } := rfl

theorem witness_DecReturnsTheTriple :
    fieldE 0x1C000000 = 14 ∧ fieldE 0x63C9C37F = 49 ∧ fieldE 0x1BC9C37F = 13 ∧
    fieldE 0x640F4240 = 50 := by
  decide

theorem witness_EncdReturnsTheEncodedWord :
    (9 : LeadBits).toNat ≤ 9 ∧ (9999999 : TrailBits).toNat ≤ 9999999 := by decide

theorem witness_DecodedTriplesAreInRange :
    isValidWord 0x7F7D7840 = true ∧ 50 ≤ fieldE 0x7F7D7840 ∧ (decodeWord 0x7F7D7840).e = 47 ∧
    isValidWord 0x000F423F = true ∧ fieldE 0x000F423F ≤ 13 ∧ isValidWord 0x1C000000 = true := by
  decide

theorem witness_ValidWordsRoundTrip :
    isValidWord 0x00000001 = true ∧ isValidWord 0x80000000 = true := by decide

theorem witness_EncmThenDec_regionA :
    (10000000 : MantBits).toNat ≤ 99999999 ∧ -48 ≤ (0xFA : ExpBits).toInt ∧
    (0xFA : ExpBits).toInt ≤ 47 ∧
    (-6 ≤ (0xFA : ExpBits).toInt ∧ (0xFA : ExpBits).toInt ≤ 5 →
      10000000 ≤ (10000000 : MantBits).toNat) ∧
    ((0xFA : ExpBits).toInt < -6 ∨ 5 < (0xFA : ExpBits).toInt →
      (10000000 : MantBits).toNat % 10 = 0) := by
  decide

theorem witness_EncmThenDec_regionB :
    (99999990 : MantBits).toNat ≤ 99999999 ∧ -48 ≤ (47 : ExpBits).toInt ∧
    (47 : ExpBits).toInt ≤ 47 ∧
    (-6 ≤ (47 : ExpBits).toInt ∧ (47 : ExpBits).toInt ≤ 5 → 10000000 ≤ (99999990 : MantBits).toNat) ∧
    ((47 : ExpBits).toInt < -6 ∨ 5 < (47 : ExpBits).toInt →
      (99999990 : MantBits).toNat % 10 = 0) := by
  decide

theorem witness_BrokenObligations :
    (Instr.shift 429497 4).honoursObligations = false ∧
    (Instr.encm 1 100000000 0).honoursObligations = false ∧
    (Instr.encd 1 10 0 0).honoursObligations = false := by
  decide

theorem witness_ShiftReturnsTheScaledMagnitude :
    (0xF7 : AmtBits).toInt = -9 ∧ (0xF8 : AmtBits).toInt = -8 ∧ (0xFF : AmtBits).toInt = -1 ∧
    (0 : AmtBits).toInt = 0 := by
  decide

theorem witness_ShiftRightTruncates :
    (0xF8 : AmtBits).toInt < 0 ∧ -8 ≤ (0xF8 : AmtBits).toInt ∧
    (0xFF : AmtBits).toInt < 0 ∧ -8 ≤ (0xFF : AmtBits).toInt := by
  decide

theorem witness_FinalizeFollowsItsLoops :
    (99999999 < 100000000) ∧ ((9999999 : Nat) < 10000000 ∧ (-48 : Int) < -47) ∧
    ((99999999 : Nat) ≤ 99999999 ∧ (-49 : Int) < -48) ∧
    ((99999999 : Nat) ≤ 99999999 ∧ (-48 : Int) ≤ 47 ∧ (10000000 ≤ 99999999 ∨ (47 : Int) = -48)) ∧
    ((0 : Nat) ≤ 99999999 ∧ (-48 : Int) ≤ -48 ∧ (10000000 ≤ 0 ∨ (-48 : Int) = -48)) := by
  decide

theorem witness_FinalizeTruncatesTowardZero :
    finalize 1 123456789 (-60) ≠ infWord 1 ∧ finalize 0 50000000 47 ≠ infWord 0 := by
  decide

theorem witness_AdderWidths :
    (decodeWord 0x40000000).s = (decodeWord 0x7F7D7840).s ∧
    (decodeWord 0x40000000).s ≠ (decodeWord 0xC0000000).s := by
  decide

theorem witness_MulByOneIsIdentity :
    isValidWord 0x7F7D7840 = true ∧ isValidWord 0x000F423F = true := by decide

theorem witness_MulWidths : (-48 : Int) ≤ -48 := by decide

theorem witness_DivWidths : (decodeWord 0x00000001).m ≠ 0 ∧ 1 ≤ 1 := by decide

theorem witness_PowerOfTwoTables :
    (-179 ≤ (-179 : Int) ∧ (-179 : Int) ≤ 159) ∧ (-179 ≤ (159 : Int) ∧ (159 : Int) ≤ 159) := by
  decide

theorem witness_PowerOfTenTable :
    (-54 ≤ (-54 : Int) ∧ (-54 : Int) ≤ 47) ∧ (-54 ≤ (47 : Int) ∧ (47 : Int) ≤ 47) ∧
    (f64Exp 0 ≠ 2047 ∧ (0 : Binary64) ≠ romPow10 23) ∧
    (0 ≤ (22 : Int) ∧ (22 : Int) ≤ 22) := by
  decide

theorem witness_F2dWidths :
    f2dInRange 0x34C0000000000000 = true ∧ f2dInRange 0x49EFFFFFFFFFFFFF = true := by
  decide

theorem witness_D2fSignificandIsExact : 9007199254740991 < 2 ^ 53 := by decide

theorem witness_D2fLeavesTheTable :
    fieldE 0x7FC9C380 = 63 ∧ 30000000 ≤ fieldF 0x7FC9C380 := by decide

theorem witness_D2fNeverOverflows :
    ((decodeWord 0x7FC00000).e ≤ 47 ∧ (decodeWord 0x7FC00000).m ≠ 0) ∧
    ((decodeWord 0x80000000).e ≤ 47 ∧ (decodeWord 0x80000000).m = 0) := by
  decide

theorem witness_Fp64MulRoundsToNearestEven :
    f64Exp 0x3FB999999999999A ≠ 2047 ∧ f64Exp 0x0000000000000001 ≠ 2047 ∧
    f64Exp (fp64Mul 0x3FB999999999999A 0x0000000000000001) ≠ 2047 ∧
    f64Exp 0x7FEFFFFFFFFFFFFF ≠ 2047 := by
  decide

theorem witness_FmtClassifies_special :
    (fieldE 0x7F800000 = 63 ∧ fieldF 0x7F800000 = 25165824) ∧
    (fieldE 0x7F7D7841 = 63 ∧ fieldF 0x7F7D7841 = 25000001) ∧ fieldF 0x41C9C380 = 30000000 ∧
    (fieldE 0x020F423F = 1 ∧ fieldF 0x020F423F % 10 ^ 7 = 999999) ∧
    (fieldE 0x00989680 = 0 ∧ fieldF 0x00989680 = 10 ^ 7) := by
  decide

theorem witness_FmtClassifies_valid :
    (fieldE 0x0098967F = 0 ∧ fieldF 0x0098967F = 10 ^ 7 - 1) ∧
    (fieldE 0x1DC9C37F = 14 ∧ fieldF 0x1DC9C37F = 29999999) ∧
    (fieldE 0x7F7D7840 = 63 ∧ fieldF 0x7F7D7840 = 25000000) ∧
    (fieldE 0x00A7D8C0 = 0 ∧ fieldF 0x00A7D8C0 = 11000000) := by
  decide

theorem witness_FmtTextDeterminesTheValidWord :
    isValidWord 0x00000001 = true ∧
    exec (.fmt 0x00000001) State.reset = .next (State.reset.drive 0xB (.text (rendererUnit 0x00000001))) :=
  ⟨by decide, rfl⟩

theorem witness_StepKeepsResultsInRange :
    ResultsInRange { State.reset with out := .shifted 0 } ∧
    step ({ State.reset with out := .shifted 0 }.present (.shift 0 0))
      = .next ({ State.reset with out := .shifted 0 }.present (.shift 0 0)) :=
  ⟨rfl, rfl⟩

theorem witness_SpeltCommandsAssemble :
    (Instr.f2d 0).wellFormed = true ∧ Instr.reservedF.wellFormed = false := by decide

theorem witness_PseudoCommandsExpand :
    (9 : LeadBits).toNat ≤ 9 ∧ (9999999 : TrailBits).toNat ≤ 9999999 ∧ (15 : LeadBits) ≠ 0 := by
  decide

end Sys2Proof.Tests
end

/-! PROOFS. The fields of a word as numbers, the classes of words as arithmetic on the fields, and
the obligations on decoded triples, on the `illegal` strobe and on the special words. -/

namespace Sys2Proof.Proofs

open Sys2Proof Sys2Proof.Machine Sys2Proof.Spec

/-! ### The plain-arithmetic fields are the model's fields -/

theorem fieldE_eq_expField (w : Word) : fieldE w = expField w :=
  (expField_eq w).symm

theorem fieldF_eq_mantField (w : Word) : fieldF w = mantField w :=
  (mantField_eq w).symm

/-! ### The special words as packed fields (rules R22 and R23) -/

theorem qnanWord_eq_mkWord (s : SignBit) : qnanWord s = mkWord s 63 29360128 := by
  revert s
  decide

@[simp] theorem expField_infWord (s : SignBit) : expField (infWord s) = 63 :=
  expField_mkWord s (by decide) (by decide)

@[simp] theorem mantField_infWord (s : SignBit) : mantField (infWord s) = 25165824 :=
  mantField_mkWord s (by decide) (by decide)

@[simp] theorem expField_qnanWord (s : SignBit) : expField (qnanWord s) = 63 := by
  rw [qnanWord_eq_mkWord, expField_mkWord s (by decide) (by decide)]

@[simp] theorem mantField_qnanWord (s : SignBit) : mantField (qnanWord s) = 29360128 := by
  rw [qnanWord_eq_mkWord, mantField_mkWord s (by decide) (by decide)]

/-! ### The checks of rule R190 -/

theorem magnitude_toNat (w : Word) :
    (magnitude w).toNat = expField w * 2 ^ 25 + mantField w := by
  have hmag : (magnitude w).toNat = w.toNat % 2 ^ 31 := by
    simp [magnitude, BitVec.extractLsb'_toNat]
  rw [hmag, expField_eq, mantField_eq]
  omega

/-- Check 1 compares the two fields with those of rule R22. -/
theorem magnitude_eq_infinity_iff (w : Word) :
    magnitude w = (0x7F800000#32).extractLsb' 0 31 ↔
      expField w = 63 ∧ mantField w = 25165824 := by
  have hF := mantField_lt w
  have hinf : ((0x7F800000#32).extractLsb' 0 31).toNat = 63 * 2 ^ 25 + 25165824 := by decide
  rw [← BitVec.toNat_inj, magnitude_toNat, hinf]
  omega

theorem classify_of_infinity_fields {w : Word} (hE : expField w = 63)
    (hF : mantField w = 25165824) : classify w = .infinity := by
  simp only [classify, if_pos ((magnitude_eq_infinity_iff w).2 ⟨hE, hF⟩)]

/-- Check 2: exponent 47 with a mantissa above 50,000,000, where check 1 did not match. -/
theorem classify_of_over_ceiling {w : Word} (hinf : mantField w ≠ 25165824)
    (he : (decodeWord w).e = 47) (hm : 50000000 < (decodeWord w).m) : classify w = .nan := by
  have hmag : ¬ magnitude w = (0x7F800000#32).extractLsb' 0 31 := fun h =>
    hinf ((magnitude_eq_infinity_iff w).1 h).2
  simp only [classify, if_neg hmag, if_pos (And.intro he hm)]

/-- A word is valid exactly where none of the four checks matches (rule R15). -/
theorem isValidWord_iff (w : Word) :
    isValidWord w = true ↔
      ¬ (expField w = 63 ∧ mantField w = 25165824) ∧
      ¬ ((decodeWord w).e = 47 ∧ 50000000 < (decodeWord w).m) ∧
      ¬ 30000000 ≤ mantField w ∧
      ¬ ((expField w ≤ 13 ∨ 50 ≤ expField w) ∧ (decodeWord w).e ≠ -48 ∧
        mantField w % 10 ^ 7 < 1000000) := by
  rw [← magnitude_eq_infinity_iff, isValidWord, decide_eq_true_eq]
  simp only [classify]
  split
  next h => exact iff_of_false nofun fun ⟨h', _⟩ => h' h
  next h1 =>
    split
    next h => exact iff_of_false nofun fun ⟨_, h', _⟩ => h' h
    next h2 =>
      split
      next h => exact iff_of_false nofun fun ⟨_, _, h', _⟩ => h' h
      next h3 =>
        split
        next h => exact iff_of_false nofun fun ⟨_, _, _, h'⟩ => h' h
        next h4 => exact iff_of_true rfl ⟨h1, h2, h3, h4⟩

/-! ### The ranges of decoded triples (rule R26) -/

/-- Everything the decoder can answer for the mantissa and the exponent, by region (rule R24). -/
theorem decodeWord_cases (w : Word) :
    (expField w ≤ 13 ∧ (decodeWord w).m = 10 * (mantField w % 10 ^ 7) ∧
      (decodeWord w).e = 3 * ((expField w : Int) - 16) + (mantField w / 10 ^ 7 : Nat)) ∨
    (14 ≤ expField w ∧ expField w ≤ 49 ∧
      (decodeWord w).m = mantField w + (1 + 3 * ((expField w - 14) % 3)) * 10 ^ 7 ∧
      (decodeWord w).e = ((expField w - 14) / 3 : Nat) - 6) ∨
    (50 ≤ expField w ∧ (decodeWord w).m = 10 * (mantField w % 10 ^ 7) ∧
      (decodeWord w).e = 3 * ((expField w : Int) - 48) + (mantField w / 10 ^ 7 : Nat)) := by
  obtain hlow | ⟨h14, h49⟩ | hhigh := region_cases w
  · rw [decodeWord_regionBLow hlow]
    exact .inl ⟨hlow, rfl, rfl⟩
  · rw [decodeWord_regionA h14 h49]
    exact .inr (.inl ⟨h14, h49, rfl, rfl⟩)
  · rw [decodeWord_regionBHigh hhigh]
    exact .inr (.inr ⟨hhigh, rfl, rfl⟩)

/-- The ranges of rule R26 that hold for every word: the mantissa's bound is met in Region A and the
exponent's bounds at the ends of Region B. -/
theorem decodeWord_range (w : Word) :
    (decodeWord w).m ≤ 103554431 ∧ -48 ≤ (decodeWord w).e ∧ (decodeWord w).e ≤ 48 := by
  have hE := expField_lt w
  have hF := mantField_lt w
  obtain ⟨hlow, hm, he⟩ | ⟨h14, h49, hm, he⟩ | ⟨hhigh, hm, he⟩ := decodeWord_cases w
  · omega
  · omega
  · omega

/-- A valid word's triple lies in the ranges of rule R26: check 3 bounds Region A's mantissa and
Region B's exponent, check 4 keeps Region B normal above the floor exponent, and check 2 is the
ceiling at exponent 47. -/
theorem inValidRanges_of_isValidWord {w : Word} (hv : isValidWord w = true) :
    InValidRanges w (decodeWord w) := by
  obtain ⟨-, hceil, hfield, hnormal⟩ := (isValidWord_iff w).1 hv
  have hE := expField_lt w
  rw [InValidRanges, fieldE_eq_expField, fieldF_eq_mantField]
  obtain ⟨hlow, hm, he⟩ | ⟨h14, h49, hm, he⟩ | ⟨hhigh, hm, he⟩ := decodeWord_cases w
  · omega
  · omega
  · omega

/-- Settles O15: the bounds on any word's triple and the ranges of a valid word's. -/
theorem decodedTriplesAreInRange : Obligations.DecodedTriplesAreInRange := by
  intro w
  obtain ⟨hm, hlo, hhi⟩ := decodeWord_range w
  exact ⟨hm, hlo, hhi, inValidRanges_of_isValidWord⟩

/-! ### The `illegal` strobe (rule R29) -/

/-- The decoder selects the row by the op code alone (rules R62 and R63). -/
@[simp] theorem opcode_decode (p : Ports) : (decode p).opcode = p.op := by
  have hop := p.op.isLt
  apply BitVec.eq_of_toNat_eq
  rw [decode]
  interval_cases p.op.toNat <;> rfl

theorem illegalStrobe_eq_true_iff (op : OpBits) : illegalStrobe op = true ↔ 0xC ≤ op.toNat :=
  decide_eq_true_iff

/-- Everything a step can do: it drives results and the strobe of the op code on the ports. -/
theorem step_drives (s : State) : ∃ r, step s = .next (s.drive s.ins.op r) := by
  obtain ⟨r, hr⟩ := exec_drives (decode s.ins) s
  exact ⟨r, by rw [step, hr, opcode_decode]⟩

/-- Settles O7: a step's strobe is that of the op code on its own ports, whatever stood there
before. -/
theorem illegalStrobeMarksReservedOpcodes : Obligations.IllegalStrobeMarksReservedOpcodes := by
  intro s t hstep
  obtain ⟨r, hr⟩ := step_drives s
  obtain rfl : s.drive s.ins.op r = t := Host.Outcome.next.inj (hr.symm.trans hstep)
  rw [State.drive_illegal, illegalStrobe_eq_true_iff]

/-! ### The special words (rules R22 and R23) -/

theorem classify_infWord (s : SignBit) : classify (infWord s) = .infinity :=
  classify_of_infinity_fields (expField_infWord s) (mantField_infWord s)

/-- The canonical NaN decodes to exponent 47, above the ceiling of check 2. -/
theorem decodeWord_qnanWord (s : SignBit) :
    (decodeWord (qnanWord s)).e = 47 ∧ (decodeWord (qnanWord s)).m = 93601280 := by
  rw [decodeWord_regionBHigh (by simp), expField_qnanWord, mantField_qnanWord]
  norm_num

theorem classify_qnanWord (s : SignBit) : classify (qnanWord s) = .nan := by
  obtain ⟨he, hm⟩ := decodeWord_qnanWord s
  exact classify_of_over_ceiling (by simp) he (by simp [hm])

/-- Settles O21: the four patterns are evaluated; fields and classes hold for either sign. -/
theorem specialWordPatterns : Obligations.SpecialWordPatterns := by
  refine ⟨by decide, by decide, by decide, by decide, fun s => ?_⟩
  rw [fieldE_eq_expField, fieldE_eq_expField, fieldF_eq_mantField, fieldF_eq_mantField]
  exact ⟨expField_infWord s, mantField_infWord s, expField_qnanWord s, mantField_qnanWord s,
    classify_infWord s, classify_qnanWord s⟩

end Sys2Proof.Proofs

/-! PROOFS. What a step drives is a function of the input ports alone, and the obligation that an
invocation has no side effects. -/

namespace Sys2Proof.Proofs

open Sys2Proof Sys2Proof.Machine Sys2Proof.Spec

/-! ### Results are a function of the input ports (rule R48) -/

/-- Driving overwrites all that an earlier invocation left on the output ports. -/
@[simp] theorem drive_drive (s : State) (op op' : OpBits) (r r' : Results) :
    (s.drive op r).drive op' r' = s.drive op' r' := rfl

/-- `exec_drives` with one result for all states: a command reads only its own operands, never the
state it runs in. -/
theorem exec_drives_same (i : Instr) :
    ∃ r, ∀ s : State, exec i s = .next (s.drive i.opcode r) := by
  cases i <;> exact ⟨_, fun _ => rfl⟩

/-- `step_drives` with one result for all states that have the same input ports. -/
theorem step_drives_same (p : Ports) :
    ∃ r, ∀ s : State, s.ins = p → step s = .next (s.drive p.op r) := by
  obtain ⟨r, hr⟩ := exec_drives_same (decode p)
  refine ⟨r, fun s hs => ?_⟩
  rw [step, hs, hr, opcode_decode]

/-- A step leaves the output ports as the next step would drive them (rule R230). -/
theorem step_of_step {s t : State} (hstep : step s = .next t) : step t = .next t := by
  obtain ⟨r, hr⟩ := step_drives_same s.ins
  obtain rfl : s.drive s.ins.op r = t := Host.Outcome.next.inj ((hr s rfl).symm.trans hstep)
  rw [hr _ (State.drive_ins s s.ins.op r), drive_drive]

/-- Settles O9: the result and the strobe are those of the input ports, shared by both states, and
driving them a second time changes nothing. -/
theorem invocationsHaveNoSideEffects : Obligations.InvocationsHaveNoSideEffects := by
  refine ⟨fun s t hins => ?_, fun _ _ => step_of_step⟩
  obtain ⟨r, hr⟩ := step_drives_same t.ins
  exact ⟨r, illegalStrobe t.ins.op, hr s hins, hr t rfl⟩

end Sys2Proof.Proofs

/-! PROOFS. The command view: what the reserved op codes drive, and the obligations on them and on the
pseudo-commands. -/

namespace Sys2Proof.Proofs

open Sys2Proof Sys2Proof.Machine Sys2Proof.Spec

/-! ### The strobe by kind of op code (rules R29 and R64) -/

theorem drive_of_reserved {op : OpBits} (hop : 0xC ≤ op.toNat) (s : State) (r : Results) :
    s.drive op r = { s with out := r, illegal := true } := by
  rw [State.drive_eq, (illegalStrobe_eq_true_iff op).2 hop]

theorem drive_of_command {op : OpBits} (hop : op.toNat < 0xC) (s : State) (r : Results) :
    s.drive op r = { s with out := r, illegal := false } := by
  rw [State.drive_eq, illegalStrobe, decide_eq_false (Nat.not_le_of_lt hop)]

/-! ### Reserved op codes (rule R64) -/

/-- The four reserved rows invoke no unit: each drives zeros under its own op code. -/
theorem exec_drives_zeros_of_not_wellFormed {i : Instr} (hi : i.wellFormed = false) (s : State) :
    exec i s = .next (s.drive i.opcode .zeros) := by
  cases i with
  | reservedC | reservedD | reservedE | reservedF => rfl
  | _ => cases hi

theorem exec_of_not_wellFormed {i : Instr} (hi : i.wellFormed = false) (s : State) :
    exec i s = .next { s with out := .zeros, illegal := true } := by
  have hop : 0xC ≤ i.opcode.toNat := Nat.le_of_not_lt (of_decide_eq_false hi)
  rw [exec_drives_zeros_of_not_wellFormed hi, drive_of_reserved hop]

/-- The adder's reserved mode selects none of its three forms. -/
theorem adderUnit_reserved_mode (a b : Word) : adderUnit 0b11#2 a b = 0 := by
  rw [adderUnit, if_neg (by decide), if_neg (by decide), if_neg (by decide)]

/-- Settles O6: the four op codes are those of the terms that are not well formed, and each result
port is read off the zeros. -/
theorem reservedOpcodesDriveIllegalAndZeros :
    Obligations.ReservedOpcodesDriveIllegalAndZeros := by
  refine ⟨fun s => ?_, rfl, rfl, rfl, rfl, rfl, rfl, rfl, rfl, adderUnit_reserved_mode⟩
  exact ⟨exec_of_not_wellFormed (by decide) s, exec_of_not_wellFormed (by decide) s,
    exec_of_not_wellFormed (by decide) s, exec_of_not_wellFormed (by decide) s⟩

/-! ### The commands that pseudo-commands expand to (rules R103, R105, R132 and R134) -/

theorem adderUnit_add (a b : Word) : adderUnit 0b00#2 a b = addWord a b := by
  rw [adderUnit, if_pos rfl]

theorem adderUnit_sub (a b : Word) : adderUnit 0b01#2 a b = subWord a b := by
  rw [adderUnit, if_neg (by decide), if_pos rfl]

theorem encoderUnit_mantissa (sign : SignBit) (mant8 : MantBits) (lead : LeadBits)
    (trail : TrailBits) (exp : ExpBits) :
    encoderUnit 0#1 sign mant8 lead trail exp = encmWord sign mant8 exp := by
  rw [encoderUnit, if_pos rfl]

theorem encoderUnit_digits (sign : SignBit) (mant8 : MantBits) (lead : LeadBits)
    (trail : TrailBits) (exp : ExpBits) :
    encoderUnit 1#1 sign mant8 lead trail exp = encdWord sign lead trail exp := by
  rw [encoderUnit, if_neg (by decide)]

theorem exec_add (a b : Word) (s : State) :
    exec (.add a b) s = .next (s.drive 0x4#4 (.value (addWord a b))) := by
  rw [exec, execAdd, adderUnit_add]

theorem exec_sub (a b : Word) (s : State) :
    exec (.sub a b) s = .next (s.drive 0x5#4 (.value (subWord a b))) := by
  rw [exec, execSub, adderUnit_sub]

theorem exec_encm (sign : SignBit) (mant8 : MantBits) (exp : ExpBits) (s : State) :
    exec (.encm sign mant8 exp) s =
      .next (s.drive 0x0#4 (.word (encmWord sign mant8 exp))) := by
  rw [exec, execEncm, encoderUnit_mantissa]

theorem exec_encd (sign : SignBit) (lead : LeadBits) (trail : TrailBits) (exp : ExpBits)
    (s : State) :
    exec (.encd sign lead trail exp) s =
      .next (s.drive 0x1#4 (.word (encdWord sign lead trail exp))) := by
  rw [exec, execEncd, encoderUnit_digits]

/-- SUB and ADD answer on the same result port, and neither op code is reserved. -/
theorem exec_sub_eq_exec_add_negWord (a b : Word) (s : State) :
    exec (.sub a b) s = exec (.add a (negWord b)) s := by
  rw [exec_sub, exec_add, drive_of_command (by decide), drive_of_command (by decide), subWord]

/-- Digits in range join to at most 99,999,999, which the 27 bits of `mant8` hold. -/
theorem encdWord_of_digits (sign : SignBit) {lead : LeadBits} {trail : TrailBits} (exp : ExpBits)
    (hlead : lead.toNat ≤ 9) (htrail : trail.toNat ≤ 9999999) :
    encdWord sign lead trail exp =
      encmWord sign (BitVec.ofNat 27 (lead.toNat * 10 ^ 7 + trail.toNat)) exp := by
  have hfits : lead.toNat * 10 ^ 7 + trail.toNat < 2 ^ 27 := by omega
  rw [encdWord, if_neg (by omega), encmWord, BitVec.toNat_ofNat, Nat.mod_eq_of_lt hfits]

theorem exec_encd_eq_exec_encm (sign : SignBit) {lead : LeadBits} {trail : TrailBits}
    (exp : ExpBits) (s : State) (hlead : lead.toNat ≤ 9) (htrail : trail.toNat ≤ 9999999) :
    exec (.encd sign lead trail exp) s =
      exec (.encm sign (BitVec.ofNat 27 (lead.toNat * 10 ^ 7 + trail.toNat)) exp) s := by
  rw [exec_encd, exec_encm, drive_of_command (by decide), drive_of_command (by decide),
    encdWord_of_digits sign exp hlead htrail]

/-! ### Operand values from their spellings (rule R69) -/

/-- An unsigned port's value is read back from its decimal spelling, at every width. -/
@[simp] theorem toUnsigned_int_toNat {n : Nat} (v : BitVec n) :
    (Spelling.int v.toNat).toUnsigned n = some v := by
  have hfits : 0 ≤ (v.toNat : Int) ∧ (v.toNat : Int) < 2 ^ n :=
    ⟨Int.natCast_nonneg _, by exact_mod_cast v.isLt⟩
  rw [Spelling.toUnsigned, if_pos hfits, BitVec.ofInt_natCast, BitVec.ofNat_toNat,
    BitVec.setWidth_eq]

/-- A two's complement port's value is read back from its decimal spelling. -/
@[simp] theorem toSigned8_int_toInt (v : BitVec 8) :
    (Spelling.int v.toInt).toSigned8 = some v := by
  have hlow : -128 ≤ v.toInt := BitVec.le_toInt v
  have hhigh : v.toInt < 128 := BitVec.toInt_lt
  rw [Spelling.toSigned8, if_pos ⟨hlow, by omega⟩, BitVec.ofInt_toInt]

/-! ### MKDIGITS (rule R70) -/

theorem buildCommand_encd (negative : Bool) (lead : LeadBits) (trail : TrailBits) (exp : ExpBits) :
    buildCommand 0x1 [.sign negative, .int lead.toNat, .int trail.toNat, .int exp.toInt] =
      some (.encd (BitVec.ofBool negative) lead trail exp) := by
  simp [buildCommand, Spelling.toSign]

theorem lookup_encd : commandNames.lookup "ENCD" = some 0x1 := by decide

/-- MKDIGITS takes the leading digit from the magnitude of `units` and the sign from its order to 0. -/
theorem assembleMkdigits_of_natAbs {units : Int} {lead : LeadBits}
    (hunits : units.natAbs = lead.toNat) (trail : TrailBits) (exp : ExpBits) :
    assembleMkdigits units trail.toNat exp.toInt =
      .ok (.encd (BitVec.ofBool (decide (units < 0))) lead trail exp) := by
  simp only [assembleMkdigits, assemble, lookup_encd, hunits, buildCommand_encd]

theorem assembleMkdigits_neg {lead : LeadBits} (trail : TrailBits) (exp : ExpBits)
    (hlead : lead ≠ 0) :
    assembleMkdigits (-(lead.toNat : Int)) trail.toNat exp.toInt =
      .ok (.encd 1 lead trail exp) := by
  have hpos : 0 < lead.toNat := Nat.pos_of_ne_zero (BitVec.toNat_ne.1 hlead)
  have hsign : decide (-(lead.toNat : Int) < 0) = true := decide_eq_true (by omega)
  rw [assembleMkdigits_of_natAbs (lead := lead) (by omega), hsign]
  rfl

theorem assembleMkdigits_nonneg (lead : LeadBits) (trail : TrailBits) (exp : ExpBits) :
    assembleMkdigits lead.toNat trail.toNat exp.toInt = .ok (.encd 0 lead trail exp) := by
  have hsign : decide ((lead.toNat : Int) < 0) = false := decide_eq_false (by omega)
  rw [assembleMkdigits_of_natAbs (Int.natAbs_natCast _), hsign]
  rfl

/-! ### ONE and the four expansions (rule R70) -/

theorem oneWord_eq : oneWord = 0x40000000 := by decide

/-- Settles O58: SUB and ENCD run as the commands they expand to, MKDIGITS assembles to ENCD with the
sign of `units`, and ONE is evaluated. -/
theorem pseudoCommandsExpand : Obligations.PseudoCommandsExpand :=
  ⟨exec_sub_eq_exec_add_negWord,
    fun sign _ _ exp s hlead htrail => exec_encd_eq_exec_encm sign exp s hlead htrail,
    fun _ trail exp hlead => assembleMkdigits_neg trail exp hlead,
    assembleMkdigits_nonneg, oneWord_eq⟩

end Sys2Proof.Proofs

/-! PROOFS. The codec on its ports: the round trip of a word through DEC and ENCM, the bound on the
mantissa field of the encoder's words, and the obligations on what DEC, ENCM and ENCD return. -/

namespace Sys2Proof.Proofs

open Sys2Proof Sys2Proof.Machine Sys2Proof.Spec

/-! ### Words of packed fields (rules R12 and R21) -/

/-- The model's word of three fields is the one of their numbers, where the fields fit. -/
theorem mkWord_eq_pack (s : SignBit) {E F : Nat} (hE : E < 64) (hF : F < 2 ^ 25) :
    mkWord s E F = pack s.toNat E F := by
  have hs := s.isLt
  apply BitVec.eq_of_toNat_eq
  rw [mkWord_toNat s hE hF, pack, BitVec.toNat_ofNat]
  omega

theorem qnanWord_eq_qnan (s : SignBit) : qnanWord s = qnan s.toNat := by
  rw [qnanWord_eq_mkWord, mkWord_eq_pack s (by decide) (by decide), qnan]

/-- `mkWord_fields` for fields that are computed and not read off the word. -/
theorem mkWord_signOf_of_fields {w : Word} {E F : Nat} (hE : E = expField w)
    (hF : F = mantField w) : mkWord (signOf w) E F = w := by
  rw [hE, hF, mkWord_fields]

/-- Rule R133: NEG complements the sign field and passes the two others through. -/
theorem negWord_eq_mkWord (w : Word) :
    negWord w = mkWord (~~~ signOf w) (expField w) (mantField w) := by
  have hE := expField_lt w
  have hF := mantField_lt w
  apply BitVec.eq_of_toNat_eq
  rw [mkWord_toNat _ hE hF, negWord, BitVec.toNat_append,
    ← Nat.shiftLeft_add_eq_or_of_lt (magnitude w).isLt, Nat.shiftLeft_eq, magnitude_toNat]
  omega

theorem expField_negWord (w : Word) : expField (negWord w) = expField w := by
  rw [negWord_eq_mkWord, expField_mkWord _ (expField_lt w) (mantField_lt w)]

theorem mantField_negWord (w : Word) : mantField (negWord w) = mantField w := by
  rw [negWord_eq_mkWord, mantField_mkWord _ (expField_lt w) (mantField_lt w)]

/-! ### DEC's results on their ports (rule R101) -/

/-- The 27 bits of `mant8` hold every decoded mantissa. -/
theorem decoded_mantissa_toNat (w : Word) :
    (BitVec.ofNat 27 (decodeWord w).m).toNat = (decodeWord w).m := by
  obtain ⟨hm, -, -⟩ := decodeWord_range w
  rw [BitVec.toNat_ofNat, Nat.mod_eq_of_lt (by omega)]

/-- The 8 bits of `exp` hold every decoded exponent. -/
theorem decoded_exponent_toInt (w : Word) :
    (toExpBits (decodeWord w).e).toInt = (decodeWord w).e := by
  obtain ⟨-, hlo, hhi⟩ := decodeWord_range w
  exact BitVec.toInt_ofInt_eq_self (by decide) (by omega) (by omega)

theorem exec_dec (w : Word) (s : State) :
    exec (.dec w) s = .next { s with
      out := .triple (signOf w) (BitVec.ofNat 27 (decodeWord w).m) (toExpBits (decodeWord w).e),
      illegal := false } := by
  rw [exec, execDec, drive_of_command (by decide), decoderUnit, decodeWord_s]

/-- ENCM of the ports that DEC drives is the encoding of the decoded triple: the ports lose
nothing. -/
theorem exec_encm_of_decoded (w : Word) (s : State) :
    exec (.encm (signOf w) (BitVec.ofNat 27 (decodeWord w).m) (toExpBits (decodeWord w).e)) s =
      .next { s with out := .word (reencoded w), illegal := false } := by
  rw [exec_encm, drive_of_command (by decide), encmWord, decoded_mantissa_toNat, signed,
    decoded_exponent_toInt, reencoded, decodeWord_s]

/-! ### The encoder's words stay below 30,000,000 in `F` (rule R107) -/

/-- Region A's `E` selects a group of three leading digits, which leaves `F` a leading digit of 0 to
2. Region B puts `e mod 3` there, and the canonical NaN's `F` is 29,360,128. -/
theorem mantField_encodeTriple_le (s : SignBit) (m : Nat) (e : Int) :
    mantField (encodeTriple s m e) ≤ 29999999 := by
  by_cases hout : 99999999 < m ∨ e < -48 ∨ 47 < e
  · simp [encodeTriple_outside hout]
  have hm : m ≤ 99999999 := by omega
  obtain hlow | ⟨h1, h2⟩ | hhigh : e ≤ -7 ∨ (-6 ≤ e ∧ e ≤ 5) ∨ 6 ≤ e := by omega
  · rw [encodeTriple_regionBLow hm (by omega) hlow, mantField_mkWord s (by omega) (by omega)]
    omega
  · obtain hzero | hpos := Nat.lt_or_ge m (10 ^ 7)
    · simp [encodeTriple_regionA_zero hzero h1 h2]
    · rw [encodeTriple_regionA hpos hm h1 h2, mantField_mkWord s (by omega) (by omega)]
      omega
  · rw [encodeTriple_regionBHigh hm hhigh (by omega), mantField_mkWord s (by omega) (by omega)]
    omega

/-! ### DEC followed by ENCM (rules R102 and R108) -/

/-- In each region of rule R24 the encoder's two fields of the decoded triple are the word's own, as
long as `F` has a leading digit of 0 to 2. -/
theorem reencoded_of_mantField_lt {w : Word} (hF : mantField w < 30000000) : reencoded w = w := by
  have hE := expField_lt w
  rw [reencoded, decodeWord_s]
  obtain ⟨hlow, hm, he⟩ | ⟨h14, h49, hm, he⟩ | ⟨hhigh, hm, he⟩ := decodeWord_cases w
  · rw [encodeTriple_regionBLow (by omega) (by omega) (by omega)]
    exact mkWord_signOf_of_fields (by omega) (by omega)
  · rw [encodeTriple_regionA (by omega) (by omega) (by omega) (by omega)]
    exact mkWord_signOf_of_fields (by omega) (by omega)
  · rw [encodeTriple_regionBHigh (by omega) (by omega) (by omega)]
    exact mkWord_signOf_of_fields (by omega) (by omega)

/-- The encoder's bound on `F` is the only obstacle to the round trip. -/
theorem reencoded_eq_self_iff (w : Word) : reencoded w = w ↔ mantField w < 30000000 := by
  refine ⟨fun h => ?_, reencoded_of_mantField_lt⟩
  have hbound : mantField (reencoded w) ≤ 29999999 := mantField_encodeTriple_le _ _ _
  rw [h] at hbound
  omega

/-- A valid word passes check 3 of rule R190. -/
theorem mantField_lt_of_isValidWord {w : Word} (hv : isValidWord w = true) :
    mantField w < 30000000 := by
  obtain ⟨-, -, hfield, -⟩ := (isValidWord_iff w).1 hv
  omega

/-- Settles O16: the ranges are those of O15, and check 3 keeps a valid word below the bound under
which DEC and ENCM are inverse. -/
theorem validWordsRoundTrip : Obligations.ValidWordsRoundTrip := by
  intro w s hv
  have hencm := exec_encm_of_decoded w s
  rw [reencoded_of_mantField_lt (mantField_lt_of_isValidWord hv)] at hencm
  exact ⟨inValidRanges_of_isValidWord hv, _, _, _, exec_dec w s, hencm⟩

/-- Settles O17: one direction is the round trip, the other the encoder's bound on `F`; the rule's
eight words are evaluated, and NEG's fields are read off its word. -/
theorem decEncmReturnsWordsBelowThirtyMillion :
    Obligations.DecEncmReturnsWordsBelowThirtyMillion := by
  refine ⟨fun w => ?_, fun w s => ⟨_, _, _, exec_dec w s, exec_encm_of_decoded w s⟩,
    by decide, fun w => ?_⟩
  · rw [fieldF_eq_mantField]
    exact reencoded_eq_self_iff w
  · simp only [fieldE_eq_expField, fieldF_eq_mantField]
    exact ⟨expField_negWord w, mantField_negWord w⟩

/-! ### The words of DEC, ENCM and ENCD as numbers (rules R101 and R103 to R106) -/

/-- Settles O12: the ports carry the decoded triple, which is rule R101's in each region. -/
theorem decReturnsTheTriple : Obligations.DecReturnsTheTriple := by
  intro w s
  refine ⟨_, _, _, exec_dec w s, signOf_toNat w, ?_, ?_⟩
  all_goals
    rw [decoded_mantissa_toNat, decoded_exponent_toInt, fieldE_eq_expField, fieldF_eq_mantField]
  · rintro ⟨h14, h49⟩
    rw [decodeWord_regionA h14 h49]
    exact ⟨rfl, rfl⟩
  · rintro (hlow | hhigh)
    · rw [decodeWord_regionBLow hlow, if_pos hlow]
      exact ⟨rfl, rfl⟩
    · rw [decodeWord_regionBHigh hhigh, if_neg (by omega)]
      exact ⟨rfl, rfl⟩

/-- Rule R103 in Region A with the two fields in any equal form: rule R65 lists them by digit
group. -/
theorem encodeTriple_regionA_eq_pack {s : SignBit} {m E F : Nat} {e : Int} (h0 : 10 ^ 7 ≤ m)
    (hm : m ≤ 99999999) (h1 : -6 ≤ e) (h2 : e ≤ 5)
    (hE : 14 + 3 * (e + 6).toNat + (m / 10 ^ 7 - 1) / 3 = E)
    (hF : m - (1 + 3 * ((m / 10 ^ 7 - 1) / 3)) * 10 ^ 7 = F) :
    encodeTriple s m e = pack s.toNat E F := by
  rw [encodeTriple_regionA h0 hm h1 h2, mkWord_eq_pack s (by omega) (by omega), hE, hF]

/-- The model's encoder and the field maps of rules R65 and R66 agree on all numbers, in the domain
and outside it. -/
theorem encodeTriple_eq_encodedWord (s : SignBit) (m : Nat) (e : Int) :
    encodeTriple s m e = encodedWord s.toNat m e := by
  unfold encodedWord
  split
  next hout => rw [encodeTriple_outside hout, qnanWord_eq_qnan]
  next hin =>
    have hm : m ≤ 99999999 := by omega
    split
    next hA =>
      obtain ⟨h1, h2⟩ := hA
      split
      next hzero => rw [encodeTriple_regionA_zero hzero h1 h2, qnanWord_eq_qnan]
      next hpos =>
        have h0 : 10 ^ 7 ≤ m := by omega
        split
        next h3 => exact encodeTriple_regionA_eq_pack h0 hm h1 h2 (by omega) (by omega)
        next h3 =>
          split
          next h6 => exact encodeTriple_regionA_eq_pack h0 hm h1 h2 (by omega) (by omega)
          next h6 => exact encodeTriple_regionA_eq_pack h0 hm h1 h2 (by omega) (by omega)
    next hB =>
      split
      next hlow =>
        rw [encodeTriple_regionBLow hm (by omega) hlow, mkWord_eq_pack s (by omega) (by omega)]
      next hhigh =>
        rw [encodeTriple_regionBHigh hm (by omega) (by omega),
          mkWord_eq_pack s (by omega) (by omega)]

/-- Settles O13: ENCM encodes the numbers on its ports. -/
theorem encmReturnsTheEncodedWord : Obligations.EncmReturnsTheEncodedWord := by
  intro sign mant8 exp s
  rw [exec_encm, drive_of_command (by decide), encmWord, encodeTriple_eq_encodedWord, signed]

/-- Settles O14: ENCD tests its digits and encodes the number they join to, which ENCM's port
holds. -/
theorem encdReturnsTheEncodedWord : Obligations.EncdReturnsTheEncodedWord := by
  intro sign lead trail exp s
  refine ⟨?_, exec_encd_eq_exec_encm sign exp s⟩
  rw [exec_encd, drive_of_command (by decide), encdWord, qnanWord_eq_qnan,
    encodeTriple_eq_encodedWord, signed]

end Sys2Proof.Proofs

/-! PROOFS. The bound on the mantissa field of every word that a unit answers, and the obligation on
it. -/

namespace Sys2Proof.Proofs

open Sys2Proof Sys2Proof.Machine Sys2Proof.Spec

/-! ### Each unit ends in the encoder or in a special word (rule R107) -/

theorem mantField_infWord_le (s : SignBit) : mantField (infWord s) ≤ 29999999 :=
  (mantField_infWord s).trans_le (by decide)

theorem mantField_qnanWord_le (s : SignBit) : mantField (qnanWord s) ≤ 29999999 :=
  (mantField_qnanWord s).trans_le (by decide)

theorem mantField_zeroWord_le (s : SignBit) : mantField (zeroWord s) ≤ 29999999 := by
  rw [zeroWord, mantField_mkWord s (by decide) (by decide)]
  decide

theorem mantField_encmWord_le (sign : SignBit) (mant8 : MantBits) (exp : ExpBits) :
    mantField (encmWord sign mant8 exp) ≤ 29999999 :=
  mantField_encodeTriple_le _ _ _

theorem mantField_encdWord_le (sign : SignBit) (lead : LeadBits) (trail : TrailBits)
    (exp : ExpBits) : mantField (encdWord sign lead trail exp) ≤ 29999999 := by
  rw [encdWord]
  split
  · exact mantField_qnanWord_le sign
  · exact mantField_encodeTriple_le _ _ _

theorem mantField_finalize_le (s : SignBit) (m : Nat) (e : Int) :
    mantField (finalize s m e) ≤ 29999999 := by
  obtain ⟨-, h⟩ | ⟨-, h⟩ := finalize_cases s m e
  · exact h ▸ mantField_infWord_le s
  · exact h ▸ mantField_encodeTriple_le _ _ _

theorem mantField_addWord_le (a b : Word) : mantField (addWord a b) ≤ 29999999 := by
  obtain h | h | h := lt_trichotomy (decodeWord a).e (decodeWord b).e
  · rw [addWord_right h]
    exact mantField_finalize_le _ _ _
  · rw [addWord_equal h]
    exact mantField_finalize_le _ _ _
  · rw [addWord_left h]
    exact mantField_finalize_le _ _ _

theorem mantField_mulWord_le (a b : Word) : mantField (mulWord a b) ≤ 29999999 := by
  obtain ⟨-, h⟩ | ⟨-, h⟩ | ⟨-, -, h⟩ := mulWord_cases a b
  · exact h ▸ mantField_zeroWord_le _
  · exact h ▸ mantField_infWord_le _
  · exact h ▸ mantField_finalize_le _ _ _

theorem mantField_divWord_le (a b : Word) : mantField (divWord a b) ≤ 29999999 := by
  obtain ⟨-, h⟩ | ⟨-, h⟩ := divWord_cases a b
  · exact h ▸ mantField_infWord_le _
  · exact h ▸ mantField_finalize_le _ _ _

/-- Rule R174's table answers zeros and Infinities only. -/
theorem f2dFallback_cases (f : Binary64) :
    f2dFallback f = infWord (f64Sign f) ∨ f2dFallback f = zeroWord (f64Sign f) := by
  rw [f2dFallback]
  split
  · exact .inl rfl
  · split
    · exact .inr rfl
    · split
      · exact .inl rfl
      · exact .inr rfl

theorem mantField_f2dFallback_le (f : Binary64) : mantField (f2dFallback f) ≤ 29999999 := by
  obtain h | h := f2dFallback_cases f
  · exact h ▸ mantField_infWord_le _
  · exact h ▸ mantField_zeroWord_le _

theorem mantField_f2dWord_le (f : Binary64) : mantField (f2dWord f) ≤ 29999999 := by
  obtain ⟨-, h⟩ | ⟨-, -, h⟩ | ⟨-, -, h⟩ := f2dWord_cases f
  · exact h ▸ mantField_qnanWord_le _
  · exact h ▸ mantField_finalize_le _ _ _
  · exact h ▸ mantField_f2dFallback_le f

/-! ### The commands that answer words -/

theorem exec_f2d (f : Binary64) (s : State) :
    exec (.f2d f) s = .next (s.drive 0x9#4 (.word (f2dWord f))) := by
  rw [exec, execF2d, binaryToDecimalUnit]

theorem exec_mul (a b : Word) (s : State) :
    exec (.mul a b) s = .next (s.drive 0x7#4 (.value (mulWord a b))) := by
  rw [exec, execMul, multiplierUnit]

theorem exec_div (a b : Word) (s : State) :
    exec (.div a b) s = .next (s.drive 0x8#4 (.value (divWord a b))) := by
  rw [exec, execDiv, dividerUnit]

theorem adderUnit_neg (a b : Word) : adderUnit 0b10#2 a b = negWord a := by
  rw [adderUnit, if_neg (by decide), if_neg (by decide), if_pos rfl]

theorem exec_neg (a : Word) (s : State) :
    exec (.neg a) s = .next (s.drive 0x6#4 (.value (negWord a))) := by
  rw [exec, execNeg, adderUnit_neg]

/-- Settles O19: each unit's word is bounded by its own lemma, SUB's as ADD's, and none of the op
codes is reserved. -/
theorem encoderNeverExceedsItsField : Obligations.EncoderNeverExceedsItsField := by
  intro s
  simp only [exec_encm, exec_encd, exec_f2d, exec_add, exec_sub, exec_mul, exec_div, exec_neg,
    fieldF_eq_mantField]
  exact ⟨fun _ _ _ => ⟨_, rfl, mantField_encmWord_le _ _ _⟩,
    fun _ _ _ _ => ⟨_, rfl, mantField_encdWord_le _ _ _ _⟩,
    fun f => ⟨_, rfl, mantField_f2dWord_le f⟩,
    fun a b => ⟨_, rfl, mantField_addWord_le a b⟩,
    fun a b => ⟨_, rfl, mantField_addWord_le a (negWord b)⟩,
    fun a b => ⟨_, rfl, mantField_mulWord_le a b⟩,
    fun a b => ⟨_, rfl, mantField_divWord_le a b⟩,
    fun a => ⟨_, rfl, mantField_negWord a⟩⟩

end Sys2Proof.Proofs

/-! PROOFS. The precision shifter: its function in each range of amounts, the number on its result
port, and the obligations on SHIFT. -/

namespace Sys2Proof.Proofs

open Sys2Proof Sys2Proof.Machine Sys2Proof.Spec

/-! ### The shifter's function by range of amounts (rules R120 to R122) -/

/-- Rule R120's test for a zero input needs no case of its own here: the quotient of 0 is 0. -/
theorem shiftMagnitude_right {k : Int} (x : Nat) (hneg : k < 0) (hmin : -8 ≤ k) :
    shiftMagnitude x k = x / 10 ^ (-k).toNat := by
  obtain ⟨-, hlost | rfl, h⟩ | ⟨-, -, h⟩ | ⟨hpos, -⟩ := shiftMagnitude_cases x k
  · omega
  · rw [h, Nat.zero_div]
  · exact h
  · omega

theorem shiftMagnitude_left {k : Int} (x : Nat) (hpos : 0 ≤ k) :
    shiftMagnitude x k = x * 10 ^ k.toNat % 2 ^ 32 := by
  rw [shiftMagnitude, if_neg (by omega)]

theorem shiftMagnitude_lost {x : Nat} {k : Int} (hneg : k < 0) (hlost : k < -8 ∨ x = 0) :
    shiftMagnitude x k = 0 := by
  rw [shiftMagnitude, if_pos hneg, if_pos hlost]

/-- A right shift never grows its input and a left shift is reduced, so the 32 bits of `y` hold
every result. -/
theorem shiftMagnitude_lt {x : Nat} (hx : x < 2 ^ 32) (k : Int) : shiftMagnitude x k < 2 ^ 32 := by
  obtain ⟨-, -, h⟩ | ⟨-, -, h⟩ | ⟨-, h⟩ := shiftMagnitude_cases x k
  · exact h ▸ Nat.two_pow_pos 32
  · exact h ▸ (Nat.div_le_self _ _).trans_lt hx
  · exact h ▸ Nat.mod_lt _ (Nat.two_pow_pos 32)

/-- Rule R121: the result is the largest number whose scaling stays within the input. -/
theorem shiftMagnitude_right_truncates {k : Int} (x : Nat) (hneg : k < 0) (hmin : -8 ≤ k) :
    shiftMagnitude x k * 10 ^ (-k).toNat ≤ x ∧
      x < (shiftMagnitude x k + 1) * 10 ^ (-k).toNat := by
  rw [shiftMagnitude_right x hneg hmin, ← Nat.div_lt_iff_lt_mul (by positivity)]
  exact ⟨Nat.div_mul_le_self _ _, Nat.lt_succ_self _⟩

/-! ### The shifter on its ports -/

theorem shifterUnit_toNat (x : ShiftData) (amt : AmtBits) :
    (shifterUnit x amt).toNat = shiftMagnitude x.toNat amt.toInt := by
  rw [shifterUnit, BitVec.toNat_ofNat, signed, Nat.mod_eq_of_lt (shiftMagnitude_lt x.isLt _)]

theorem exec_shift (x : ShiftData) (amt : AmtBits) (s : State) :
    exec (.shift x amt) s =
      .next { s with out := .shifted (shifterUnit x amt), illegal := false } := by
  rw [exec, execShift, drive_of_command (by decide)]

theorem shifterUnit_lost {x : ShiftData} {amt : AmtBits} (hneg : amt.toInt < 0)
    (hlost : amt.toInt < -8 ∨ x = 0) : shifterUnit x amt = 0 := by
  have hnat : amt.toInt < -8 ∨ x.toNat = 0 := hlost.imp_right (congrArg BitVec.toNat)
  exact BitVec.eq_of_toNat_eq
    ((shifterUnit_toNat x amt).trans (shiftMagnitude_lost hneg hnat))

/-- Settles O22: one witness, the unit's result, in the three ranges of amounts. -/
theorem shiftReturnsTheScaledMagnitude : Obligations.ShiftReturnsTheScaledMagnitude := by
  intro x amt s
  refine ⟨_, exec_shift x amt s, shifterUnit_lost, ?_, ?_⟩
  all_goals rw [shifterUnit_toNat]
  · exact shiftMagnitude_right x.toNat
  · exact shiftMagnitude_left x.toNat

/-- Settles O23: the truncation bounds hold of the number on the result port. -/
theorem shiftRightTruncates : Obligations.ShiftRightTruncates := by
  intro x amt s hneg hmin
  refine ⟨_, exec_shift x amt s, ?_⟩
  rw [shifterUnit_toNat]
  exact shiftMagnitude_right_truncates x.toNat hneg hmin

end Sys2Proof.Proofs

/-! PROOFS. Finalisation: one pass of each loop as an equation, the induction over passes, and the
obligation on the loops. -/

namespace Sys2Proof.Proofs

open Sys2Proof Sys2Proof.Machine Sys2Proof.Spec

/-! ### One pass of each loop (rule R131) -/

/-- Bounds on the passes that are both enough give one answer. -/
theorem shrinkLoop_bound_irrelevant {n n' m : Nat} (e : Int) (hn : m ≤ n) (hn' : m ≤ n') :
    shrinkLoop n m e = shrinkLoop n' m e := by
  induction n generalizing n' m e with
  | zero => rw [shrinkLoop_done 0 e (by omega), shrinkLoop_done n' e (by omega)]
  | succ n ih =>
    obtain hpass | hdone := Nat.lt_or_ge 99999999 m
    · obtain ⟨k, rfl⟩ : ∃ k, n' = k + 1 := ⟨n' - 1, by omega⟩
      rw [shrinkLoop, shrinkLoop, if_pos hpass, if_pos hpass]
      exact ih (e + 1) (by omega) (by omega)
    · rw [shrinkLoop_done _ e hdone, shrinkLoop_done _ e hdone]

theorem runLoops_shrink {m : Nat} (e : Int) (hm : 99999999 < m) :
    runLoops m e = runLoops (m / 10) (e + 1) := by
  have hpass : shrinkLoop m m e = shrinkLoop (m / 10) (m / 10) (e + 1) := by
    obtain ⟨k, rfl⟩ : ∃ k, m = k + 1 := ⟨m - 1, by omega⟩
    rw [shrinkLoop, if_pos hm]
    exact shrinkLoop_bound_irrelevant (e + 1) (by omega) le_rfl
  simp only [runLoops, hpass]

theorem runLoops_grow {m : Nat} {e : Int} (hm : m < 10000000) (he : -48 < e) :
    runLoops m e = runLoops (m * 10) (e - 1) := by
  have hpass : growLoop (e + 48).toNat m e = growLoop (e - 1 + 48).toNat (m * 10) (e - 1) := by
    rw [show (e + 48).toNat = (e - 1 + 48).toNat + 1 by omega, growLoop, if_pos ⟨hm, he⟩]
  simp only [runLoops, shrinkLoop_done m e (show m ≤ 99999999 by omega),
    shrinkLoop_done (m * 10) (e - 1) (show m * 10 ≤ 99999999 by omega), hpass]

theorem runLoops_denorm {m : Nat} {e : Int} (hm : m ≤ 99999999) (he : e < -48) :
    runLoops m e = runLoops (m / 10) (e + 1) := by
  have hpass : denormLoop (-48 - e).toNat m e =
      denormLoop (-48 - (e + 1)).toNat (m / 10) (e + 1) := by
    rw [show (-48 - e).toNat = (-48 - (e + 1)).toNat + 1 by omega, denormLoop, if_pos he]
  have hm' : m / 10 ≤ 99999999 := by omega
  simp only [runLoops, shrinkLoop_done m e hm, shrinkLoop_done (m / 10) (e + 1) hm',
    growLoop_done _ (m := m) (e := e) (.inr (by omega)),
    growLoop_done _ (m := m / 10) (e := e + 1) (.inr (by omega)), hpass]

/-- The pairs on which no loop of rule R131 makes a pass. -/
def Normalised (m : Nat) (e : Int) : Prop :=
  m ≤ 99999999 ∧ -48 ≤ e ∧ (10000000 ≤ m ∨ e = -48)

theorem runLoops_of_normalised {m : Nat} {e : Int} (h : Normalised m e) :
    runLoops m e = (m, e) := by
  obtain ⟨hm, he, hdigits⟩ := h
  simp only [runLoops, shrinkLoop_done m e hm,
    growLoop_done _ (m := m) (e := e) (hdigits.imp_right (·.le)), denormLoop_done _ m he]

/-! ### Induction over the passes -/

/-- What holds of the normalised pairs, and of a pair where it holds after one pass of the loop
whose condition the pair meets, holds of every pair. -/
theorem finalisation_induction {P : Nat → Int → Prop}
    (shrink : ∀ m e, 99999999 < m → P (m / 10) (e + 1) → P m e)
    (grow : ∀ m e, m < 10000000 → -48 < e → P (m * 10) (e - 1) → P m e)
    (denorm : ∀ m e, m ≤ 99999999 → e < -48 → P (m / 10) (e + 1) → P m e)
    (done : ∀ m e, Normalised m e → P m e) (m : Nat) (e : Int) : P m e := by
  by_cases hm : 99999999 < m
  · exact shrink m e hm (finalisation_induction shrink grow denorm done (m / 10) (e + 1))
  by_cases he : e < -48
  · exact denorm m e (by omega) he
      (finalisation_induction shrink grow denorm done (m / 10) (e + 1))
  by_cases hgrow : m < 10000000 ∧ -48 < e
  · exact grow m e hgrow.1 hgrow.2
      (finalisation_induction shrink grow denorm done (m * 10) (e - 1))
  · exact done m e ⟨by omega, by omega, by omega⟩
termination_by (m - 99999999, (e + 48).natAbs)
decreasing_by
  all_goals simp only [Prod.lex_def]
  all_goals omega

theorem normalised_runLoops (m : Nat) (e : Int) :
    Normalised (runLoops m e).1 (runLoops m e).2 := by
  induction m, e using finalisation_induction with
  | shrink m e hm ih => rwa [runLoops_shrink e hm]
  | grow m e hm he ih => rwa [runLoops_grow hm he]
  | denorm m e hm he ih => rwa [runLoops_denorm hm he]
  | done m e h => rwa [runLoops_of_normalised h]

/-! ### `finalize` through the loops -/

/-- `finalize` reads its magnitude and exponent through the loops alone. -/
theorem finalize_congr (s : SignBit) {m m' : Nat} {e e' : Int}
    (h : runLoops m e = runLoops m' e') : finalize s m e = finalize s m' e' := by
  simp only [finalize, h]

theorem infWord_eq_inf (s : SignBit) : infWord s = inf s.toNat :=
  mkWord_eq_pack s (by decide) (by decide)

theorem overflows_eq_true_iff (m : Nat) (e : Int) :
    overflows m e = true ↔ 47 < e ∨ (e = 47 ∧ 50000000 < m) := by
  simp [overflows]

theorem finalize_of_normalised (s : SignBit) {m : Nat} {e : Int} (h : Normalised m e) :
    finalize s m e =
      if 47 < e ∨ (e = 47 ∧ 50000000 < m) then inf s.toNat else encodeTriple s m e := by
  simp only [finalize, runLoops_of_normalised h, overflows_eq_true_iff, infWord_eq_inf]

/-- A zero magnitude stays zero in every pass, and the floor exponent encodes it as the zero word. -/
theorem finalize_zero (s : SignBit) (e : Int) : finalize s 0 e = pack s.toNat 0 0 := by
  have hfloor : finalize s 0 (-48) = pack s.toNat 0 0 := by
    rw [finalize_of_normalised s ⟨by decide, by decide, .inr rfl⟩, if_neg (by decide),
      encodeTriple_regionBLow (by decide) (by decide) (by decide)]
    exact mkWord_eq_pack s (by decide) (by decide)
  induction e using Int.inductionOn' (b := -48) with
  | zero => exact hfloor
  | succ e he ih =>
    rw [finalize_congr s (runLoops_grow (by decide) (by omega)), Nat.zero_mul,
      Int.add_sub_cancel, ih]
  | pred e he ih =>
    rw [finalize_congr s (runLoops_denorm (by decide) (by omega)), Nat.zero_div,
      Int.sub_add_cancel, ih]

/-- Settles O24: each pass keeps what the loops answer, a normalised pair is answered at once, and
the induction over the passes gives the loops' end. -/
theorem finalizeFollowsItsLoops : Obligations.FinalizeFollowsItsLoops := by
  intro s m e
  obtain ⟨hm, he, hdigits⟩ := normalised_runLoops m e
  exact ⟨fun hm => finalize_congr s (runLoops_shrink e hm),
    fun hm he => finalize_congr s (runLoops_grow hm he),
    fun hm he => finalize_congr s (runLoops_denorm hm he),
    fun hm he hdigits => finalize_of_normalised s ⟨hm, he, hdigits⟩,
    finalize_zero s e, he, hm, hdigits⟩

end Sys2Proof.Proofs

/-! PROOFS. The adder: NEG and SUB as changes of bit 31, ADD as the signed sum of the aligned
mantissas, and the obligations on their results, widths and exponents. -/

namespace Sys2Proof.Proofs

open Sys2Proof Sys2Proof.Machine Sys2Proof.Spec

/-! ### NEG and SUB (rules R133 and R134) -/

/-- The mask is split where NEG splits the word: it complements the sign and keeps the magnitude. -/
theorem negWord_eq_xor (w : Word) : negWord w = w ^^^ 0x80000000#32 := by
  have hword : signOf w ++ magnitude w = w :=
    BitVec.extractLsb'_append_extractLsb' (w := 1) (len := 31)
  have hmask : 0x80000000#32 = BitVec.allOnes 1 ++ 0#31 := by decide
  calc negWord w = (signOf w ^^^ BitVec.allOnes 1) ++ (magnitude w ^^^ 0#31) := by
        rw [BitVec.xor_allOnes, BitVec.xor_zero, negWord]
    _ = w ^^^ 0x80000000#32 := by rw [← BitVec.xor_append, hword, hmask]

/-- Settles O28: `negWord_eq_xor` on NEG's result port. -/
theorem negFlipsTheSignBit : Obligations.NegFlipsTheSignBit := by
  intro a s
  rw [exec_neg, drive_of_command (by decide), negWord_eq_xor]

/-- ADD's answer, with the strobe of its op code evaluated. -/
theorem exec_add_eq (a b : Word) (s : State) :
    exec (.add a b) s = .next { s with out := .value (addWord a b), illegal := false } := by
  rw [exec_add, drive_of_command (by decide)]

/-- Settles O27: SUB runs as ADD of the negated second operand, whose word is the flipped one. -/
theorem subIsAddOfTheNegated : Obligations.SubIsAddOfTheNegated := by
  intro a b s
  have hadd := exec_add_eq a (b ^^^ 0x80000000#32) s
  refine ⟨_, ?_, hadd⟩
  rw [exec_sub_eq_exec_add_negWord, negWord_eq_xor, hadd]

/-! ### Sums of sign and magnitude (rule R132) -/

@[simp] theorem signedMagnitude_positive (m : Nat) : signedMagnitude 0#1 m = m := rfl

@[simp] theorem signedMagnitude_negative (m : Nat) : signedMagnitude 1#1 m = -(m : Int) := rfl

theorem signBit_cases (s : SignBit) : s = 0#1 ∨ s = 1#1 := by
  revert s
  decide

theorem signBit_cases_of_ne {s s' : SignBit} (hs : s ≠ s') :
    (s = 0#1 ∧ s' = 1#1) ∨ (s = 1#1 ∧ s' = 0#1) := by
  revert s s'
  decide

@[simp] theorem natAbs_signedMagnitude (s : SignBit) (m : Nat) :
    (signedMagnitude s m).natAbs = m := by
  obtain rfl | rfl := signBit_cases s <;> simp

theorem signedMagnitude_zero (s : SignBit) : signedMagnitude s 0 = 0 := by
  obtain rfl | rfl := signBit_cases s <;> rfl

theorem signedMagnitude_add (s : SignBit) (m n : Nat) :
    signedMagnitude s m + signedMagnitude s n = signedMagnitude s (m + n) := by
  obtain rfl | rfl := signBit_cases s
  all_goals
    simp only [signedMagnitude_positive, signedMagnitude_negative]
    omega

theorem signedMagnitude_sub {s s' : SignBit} (hs : s ≠ s') {m n : Nat} (hle : n ≤ m) :
    signedMagnitude s m + signedMagnitude s' n = signedMagnitude s (m - n) := by
  obtain ⟨rfl, rfl⟩ | ⟨rfl, rfl⟩ := signBit_cases_of_ne hs
  all_goals
    simp only [signedMagnitude_positive, signedMagnitude_negative]
    omega

/-- The sign of rule R132's result for operands of signs `s1` and `s2` and the signed sum `v`. -/
def signOfSum (s1 s2 : SignBit) (v : Int) : SignBit :=
  if v < 0 then 1#1 else if 0 < v then 0#1 else if s1 = s2 then s1 else 0#1

theorem sumSign_eq_signOfSum (a b : Triple) : sumSign a b = signOfSum a.s b.s (alignedSum a b) :=
  rfl

/-- A nonzero sum carries its own sign. -/
theorem signOfSum_signedMagnitude (s1 s2 s : SignBit) {m : Nat} (hm : 0 < m) :
    signOfSum s1 s2 (signedMagnitude s m) = s := by
  obtain rfl | rfl := signBit_cases s
  · rw [signedMagnitude_positive, signOfSum, if_neg (by omega), if_pos (by omega)]
  · rw [signedMagnitude_negative, signOfSum, if_pos (by omega)]

/-- A zero sum takes the operands' common sign, and else is positive. -/
theorem signOfSum_zero (s1 s2 : SignBit) :
    signOfSum s1 s2 0 = if s1 = s2 then s1 else 0#1 := by
  rw [signOfSum, if_neg (lt_irrefl 0), if_neg (lt_irrefl 0)]

theorem signOfSum_same (s : SignBit) (m : Nat) : signOfSum s s (signedMagnitude s m) = s := by
  obtain rfl | hm := Nat.eq_zero_or_pos m
  · rw [signedMagnitude_zero, signOfSum_zero, if_pos rfl]
  · exact signOfSum_signedMagnitude s s s hm

theorem signOfSum_comm (s1 s2 : SignBit) (v : Int) : signOfSum s1 s2 v = signOfSum s2 s1 v := by
  obtain rfl | hs := eq_or_ne s1 s2
  · rfl
  · rw [signOfSum, signOfSum, if_neg hs, if_neg hs.symm]

/-- The adder's sum or difference of magnitudes is one addition of signed integers. -/
theorem combine_eq_signedSum (s1 : SignBit) (m1 : Nat) (s2 : SignBit) (m2 : Nat) :
    combine s1 m1 s2 m2 =
      ((signedMagnitude s1 m1 + signedMagnitude s2 m2).natAbs,
        signOfSum s1 s2 (signedMagnitude s1 m1 + signedMagnitude s2 m2)) := by
  obtain ⟨rfl, h⟩ | ⟨hs, hlt, h⟩ | ⟨hs, hlt, h⟩ | ⟨hs, rfl, h⟩ := combine_cases s1 m1 s2 m2
  · rw [h, signedMagnitude_add, natAbs_signedMagnitude, signOfSum_same]
  · rw [h, signedMagnitude_sub hs hlt.le, natAbs_signedMagnitude,
      signOfSum_signedMagnitude _ _ _ (Nat.sub_pos_of_lt hlt)]
  · rw [h, add_comm, signedMagnitude_sub hs.symm hlt.le, natAbs_signedMagnitude,
      signOfSum_signedMagnitude _ _ _ (Nat.sub_pos_of_lt hlt)]
  · rw [h, signedMagnitude_sub hs le_rfl, Nat.sub_self, signedMagnitude_zero, signOfSum_zero,
      if_neg hs, Int.natAbs_zero]

/-! ### The exponent of a sum (rules R132 and R135) -/

theorem addExponent_of_eq {a b : Triple} (he : a.e = b.e) : addExponent a b = a.e :=
  if_pos he

theorem addExponent_of_ne {a b : Triple} (he : a.e ≠ b.e) :
    addExponent a b = if a.s = b.s then max a.e b.e else max a.e b.e - 1 :=
  if_neg he

theorem addExponent_same_sign {a b : Triple} (hs : a.s = b.s) :
    addExponent a b = max a.e b.e := by
  obtain he | he := eq_or_ne a.e b.e
  · rw [addExponent_of_eq he, he, max_self]
  · rw [addExponent_of_ne he, if_pos hs]

/-- The guard digit takes at most one from the larger exponent. -/
theorem max_sub_one_le_addExponent (a b : Triple) : max a.e b.e - 1 ≤ addExponent a b := by
  rw [addExponent]
  split
  · omega
  · split <;> omega

theorem addExponent_comm (a b : Triple) : addExponent a b = addExponent b a := by
  obtain he | he := eq_or_ne a.e b.e
  · rw [addExponent_of_eq he, addExponent_of_eq he.symm, he]
  · simp only [addExponent_of_ne he, addExponent_of_ne he.symm, max_comm a.e, eq_comm (a := a.s)]

theorem alignedSum_comm (a b : Triple) : alignedSum a b = alignedSum b a := by
  rw [alignedSum, alignedSum, addExponent_comm, add_comm]

theorem sumSign_comm (a b : Triple) : sumSign a b = sumSign b a := by
  rw [sumSign_eq_signOfSum, sumSign_eq_signOfSum, alignedSum_comm, signOfSum_comm]

/-! ### Aligned mantissas (rules R120 and R132) -/

@[simp] theorem aligned_self (t : Triple) : aligned t t.e = t.m := by
  simp [aligned]

/-- The guard digit. -/
theorem aligned_sub_one (t : Triple) : aligned t (t.e - 1) = t.m * 10 := by
  simp [aligned]

/-- Aligning down is the shifter's right shift, of any mantissa that its port holds. -/
theorem shiftMagnitude_eq_aligned {t : Triple} {e : Int} (hm : t.m < 2 ^ 32) (he : t.e ≤ e) :
    shiftMagnitude t.m (-(e - t.e)) = aligned t e := by
  obtain rfl | hlt := he.eq_or_lt
  · rw [aligned_self, shiftMagnitude_left _ (by omega), Int.sub_self, Int.neg_zero, Int.toNat_zero,
      pow_zero, Nat.mul_one, Nat.mod_eq_of_lt hm]
  · rw [aligned, if_neg (by omega)]
    split
    next hlost => exact shiftMagnitude_lost (by omega) (.inl (by omega))
    next hkept => rw [shiftMagnitude_right _ (by omega) (by omega), neg_neg]

theorem aligned_le {t : Triple} {e : Int} (he : t.e ≤ e) : aligned t e ≤ t.m := by
  obtain rfl | hlt := he.eq_or_lt
  · exact (aligned_self t).le
  · rw [aligned, if_neg (by omega)]
    split
    · exact Nat.zero_le _
    · exact Nat.div_le_self _ _

/-- One place up is the furthest that the guard digit brings a mantissa. -/
theorem aligned_le_mul_ten {t : Triple} {e : Int} (he : t.e - 1 ≤ e) :
    aligned t e ≤ t.m * 10 := by
  obtain rfl | hlt := he.eq_or_lt
  · exact (aligned_sub_one t).le
  · have hle : aligned t e ≤ t.m := aligned_le (by omega)
    omega

/-! ### ADD is the signed sum (rule R132) -/

theorem combine_aligned (a b : Triple) :
    combine a.s (aligned a (addExponent a b)) b.s (aligned b (addExponent a b)) =
      ((alignedSum a b).natAbs, sumSign a b) := by
  rw [combine_eq_signedSum, sumSign_eq_signOfSum, alignedSum]

/-- The branch for differing exponents aligns both mantissas at the exponent of the sum. -/
theorem addAligned_eq_finalize {t1 t2 : Triple} (he : t2.e < t1.e) (hm : t2.m < 2 ^ 32) :
    addAligned t1 t2 =
      finalize (sumSign t1 t2) (alignedSum t1 t2).natAbs (addExponent t1 t2) := by
  have hexp := addExponent_of_ne (a := t1) (b := t2) he.ne'
  rw [max_eq_left he.le] at hexp
  have hm1 : (if t1.s = t2.s then t1.m else t1.m * 10) = aligned t1 (addExponent t1 t2) := by
    rw [hexp]
    split
    · exact (aligned_self t1).symm
    · exact (aligned_sub_one t1).symm
  have hle : t2.e ≤ addExponent t1 t2 := by
    rw [hexp]
    split <;> omega
  simp only [addAligned, ← hexp, hm1, shiftMagnitude_eq_aligned hm hle, combine_aligned]

theorem addWord_eq_finalize (a b : Word) :
    addWord a b =
      finalize (sumSign (decodeWord a) (decodeWord b))
        (alignedSum (decodeWord a) (decodeWord b)).natAbs
        (addExponent (decodeWord a) (decodeWord b)) := by
  obtain ⟨hma, -, -⟩ := decodeWord_range a
  obtain ⟨hmb, -, -⟩ := decodeWord_range b
  obtain h | h | h := lt_trichotomy (decodeWord a).e (decodeWord b).e
  · rw [addWord_right h, addAligned_eq_finalize h (by omega), sumSign_comm, alignedSum_comm,
      addExponent_comm]
  · have hsum := combine_aligned (decodeWord a) (decodeWord b)
    rw [addExponent_of_eq h, aligned_self, h, aligned_self] at hsum
    rw [addWord_equal h, addExponent_of_eq h, hsum]
  · rw [addWord_left h, addAligned_eq_finalize h (by omega)]

/-- Settles O26: `addWord_eq_finalize` on ADD's result port. -/
theorem addReturnsTheAlignedSum : Obligations.AddReturnsTheAlignedSum := by
  intro a b s
  rw [exec_add_eq, addWord_eq_finalize]

/-! ### Widths and cancellation (rule R137) -/

/-- Like signs: no guard digit, so both mantissas are aligned down. -/
theorem natAbs_alignedSum_same_sign {a b : Triple} (hs : a.s = b.s) :
    (alignedSum a b).natAbs ≤ a.m + b.m := by
  have hexp := addExponent_same_sign hs
  have ha : aligned a (addExponent a b) ≤ a.m := aligned_le (by omega)
  have hb : aligned b (addExponent a b) ≤ b.m := aligned_le (by omega)
  rw [alignedSum, hs, signedMagnitude_add, natAbs_signedMagnitude]
  omega

/-- Unlike signs: the sum is a difference of mantissas aligned at most one place up. -/
theorem natAbs_alignedSum_opposite_sign {a b : Triple} (hs : a.s ≠ b.s) :
    (alignedSum a b).natAbs ≤ max a.m b.m * 10 := by
  have hexp := max_sub_one_le_addExponent a b
  have ha : aligned a (addExponent a b) ≤ a.m * 10 := aligned_le_mul_ten (by omega)
  have hb : aligned b (addExponent a b) ≤ b.m * 10 := aligned_le_mul_ten (by omega)
  obtain hle | hle := le_total (aligned b (addExponent a b)) (aligned a (addExponent a b))
  · rw [alignedSum, signedMagnitude_sub hs hle, natAbs_signedMagnitude]
    omega
  · rw [alignedSum, add_comm, signedMagnitude_sub hs.symm hle, natAbs_signedMagnitude]
    omega

/-- The word and its negation have one mantissa, one exponent and unlike signs. -/
theorem decodeWord_negWord (w : Word) :
    decodeWord (negWord w) = { decodeWord w with s := ~~~ signOf w } := by
  have hs : signOf (negWord w) = ~~~ signOf w := by
    rw [negWord_eq_mkWord, signOf_mkWord _ (expField_lt w) (mantField_lt w)]
  simp only [decodeWord, expField_negWord, mantField_negWord, hs]
  split <;> rfl

theorem addWord_negWord (w : Word) : addWord w (negWord w) = 0 := by
  have hne : signOf w ≠ ~~~ signOf w := by
    generalize signOf w = s
    revert s
    decide
  have he : (decodeWord w).e = (decodeWord (negWord w)).e := by rw [decodeWord_negWord]
  obtain ⟨h, -⟩ | ⟨-, h, -⟩ | ⟨-, h, -⟩ | ⟨-, -, h⟩ :=
    combine_cases (signOf w) (decodeWord w).m (~~~ signOf w) (decodeWord w).m
  · exact absurd h hne
  · exact absurd h (lt_irrefl _)
  · exact absurd h (lt_irrefl _)
  · rw [addWord_equal he, decodeWord_negWord, decodeWord_s, h, finalize_zero]
    rfl

/-- Settles O29: the bounds on the two kinds of sums follow from rule R26's bound on a mantissa. -/
theorem adderWidthsAndCancellation : Obligations.AdderWidthsAndCancellation := by
  refine ⟨fun a b => ?_, fun x s => ?_⟩
  · obtain ⟨hma, -, -⟩ := decodeWord_range a
    obtain ⟨hmb, -, -⟩ := decodeWord_range b
    have hsame (hs : (decodeWord a).s = (decodeWord b).s) :
        (alignedSum (decodeWord a) (decodeWord b)).natAbs ≤ 207108862 :=
      (natAbs_alignedSum_same_sign hs).trans (by omega)
    have hopp (hs : (decodeWord a).s ≠ (decodeWord b).s) :
        (alignedSum (decodeWord a) (decodeWord b)).natAbs ≤ 1035544310 :=
      (natAbs_alignedSum_opposite_sign hs).trans (by omega)
    refine ⟨hma, hsame, fun hs => ⟨by omega, hopp hs⟩, ?_⟩
    obtain hs | hs := eq_or_ne (decodeWord a).s (decodeWord b).s
    · exact (hsame hs).trans_lt (by decide)
    · exact (hopp hs).trans_lt (by decide)
  · rw [← negWord_eq_xor, exec_add_eq, addWord_negWord]

/-! ### No underflow (rule R135) -/

theorem addExponent_decodeWord_ge (a b : Word) :
    -48 ≤ addExponent (decodeWord a) (decodeWord b) := by
  obtain ⟨-, hloa, -⟩ := decodeWord_range a
  obtain ⟨-, hlob, -⟩ := decodeWord_range b
  obtain he | he := eq_or_ne (decodeWord a).e (decodeWord b).e
  · rwa [addExponent_of_eq he]
  · have hmax := max_sub_one_le_addExponent (decodeWord a) (decodeWord b)
    omega

/-- Shrinking only raises the exponent. -/
theorem le_shrinkLoop_exponent (n m : Nat) (e : Int) : e ≤ (shrinkLoop n m e).2 := by
  induction n generalizing m e with
  | zero => exact le_rfl
  | succ n ih =>
    rw [shrinkLoop]
    split
    · exact (Int.le_add_one le_rfl).trans (ih (m / 10) (e + 1))
    · exact le_rfl

/-- Growing stops at the floor. -/
theorem growLoop_exponent_ge (n m : Nat) {e : Int} (he : -48 ≤ e) :
    -48 ≤ (growLoop n m e).2 := by
  induction n generalizing m e with
  | zero => exact he
  | succ n ih =>
    rw [growLoop]
    split
    · exact ih (m * 10) (by omega)
    · exact he

/-- Settles O30: the larger of two differing exponents lies above the floor, which leaves room for
the guard digit, and the two loops never go below the floor. -/
theorem addNeverUnderflows : Obligations.AddNeverUnderflows := by
  intro a b
  have hexp := addExponent_decodeWord_ge a b
  exact ⟨hexp, fun m => growLoop_exponent_ge _ _ (hexp.trans (le_shrinkLoop_exponent m m _))⟩

end Sys2Proof.Proofs

/-! PROOFS. The multiplier and the divider: the sign of a result, the passes that each loop of
finalisation needs, and the obligations on the results, widths and loop bounds of MUL and DIV. -/

namespace Sys2Proof.Proofs

open Sys2Proof Sys2Proof.Machine Sys2Proof.Spec

/-! ### The sign of a product or a quotient (rules R150 and R152) -/

theorem signBit_xor_toNat (s t : SignBit) : (s ^^^ t).toNat = (s.toNat + t.toNat) % 2 := by
  revert s t
  decide

theorem signOf_xor_toNat (a b : Word) : (signOf a ^^^ signOf b).toNat = xorSign a b := by
  rw [signBit_xor_toNat, signOf_toNat, signOf_toNat, xorSign, fieldS, fieldS]

theorem signOf_xor_eq_ofNat (a b : Word) :
    signOf a ^^^ signOf b = BitVec.ofNat 1 (xorSign a b) := by
  rw [← signOf_xor_toNat, BitVec.ofNat_toNat, BitVec.setWidth_eq]

theorem zeroWord_eq_pack (s : SignBit) : zeroWord s = pack s.toNat 0 0 :=
  mkWord_eq_pack s (by decide) (by decide)

/-! ### The results of MUL and DIV -/

/-- The two range checks exclude each other, and either keeps the product from finalisation. -/
theorem mulWord_eq (a b : Word) :
    mulWord a b =
      if (decodeWord a).e + (decodeWord b).e < -48 then pack (xorSign a b) 0 0
      else if 47 < (decodeWord a).e + (decodeWord b).e then inf (xorSign a b)
      else finalize (BitVec.ofNat 1 (xorSign a b)) ((decodeWord a).m * (decodeWord b).m / 10 ^ 7)
        ((decodeWord a).e + (decodeWord b).e) := by
  obtain ⟨hlow, h⟩ | ⟨hhigh, h⟩ | ⟨hlow, hhigh, h⟩ := mulWord_cases a b
  · rw [h, if_pos hlow, decodeWord_s, decodeWord_s, zeroWord_eq_pack, signOf_xor_toNat]
  · rw [h, if_neg (by omega), if_pos hhigh, decodeWord_s, decodeWord_s, infWord_eq_inf,
      signOf_xor_toNat]
  · rw [h, if_neg (by omega), if_neg (by omega), decodeWord_s, decodeWord_s, signOf_xor_eq_ofNat]

theorem divWord_eq (a b : Word) :
    divWord a b =
      if (decodeWord b).m = 0 then inf (xorSign a b)
      else finalize (BitVec.ofNat 1 (xorSign a b)) ((decodeWord a).m * 10 ^ 7 / (decodeWord b).m)
        ((decodeWord a).e - (decodeWord b).e) := by
  obtain ⟨hzero, h⟩ | ⟨hnonzero, h⟩ := divWord_cases a b
  · rw [h, if_pos hzero, decodeWord_s, decodeWord_s, infWord_eq_inf, signOf_xor_toNat]
  · rw [h, if_neg hnonzero, decodeWord_s, decodeWord_s, signOf_xor_eq_ofNat]

/-- Settles O33: `mulWord_eq` on MUL's result port. -/
theorem mulReturnsTheTruncatedProduct : Obligations.MulReturnsTheTruncatedProduct := by
  intro a b s
  rw [exec_mul, drive_of_command (by decide), mulWord_eq]

/-- Settles O34: `divWord_eq` on DIV's result port. -/
theorem divReturnsTheTruncatedQuotient : Obligations.DivReturnsTheTruncatedQuotient := by
  intro a b s
  rw [exec_div, drive_of_command (by decide), divWord_eq]

/-! ### The passes that a magnitude needs (rules R151 and R154) -/

/-- Each shrinking pass removes one digit of the excess over eight. -/
theorem shrinkLoop_le_of_lt_pow {n m : Nat} (e : Int) (hm : m < 10 ^ 8 * 10 ^ n) :
    (shrinkLoop n m e).1 ≤ 99999999 := by
  induction n generalizing m e with
  | zero =>
    rw [shrinkLoop]
    omega
  | succ n ih =>
    rw [shrinkLoop]
    split
    next => exact ih (e + 1) (by omega)
    next hdone => exact Nat.le_of_not_lt hdone

/-- Each growing pass adds one of the digits missing from eight, unless the floor stops it. -/
theorem growLoop_ends_of_le_mul_pow {n q : Nat} (e : Int) (hq : 10 ^ 7 ≤ q * 10 ^ n) :
    10000000 ≤ (growLoop n q e).1 ∨ (growLoop n q e).2 ≤ -48 := by
  induction n generalizing q e with
  | zero =>
    rw [growLoop]
    omega
  | succ n ih =>
    rw [growLoop]
    split
    next => exact ih (e - 1) (by rwa [Nat.mul_assoc, ← Nat.pow_succ'])
    next hdone => omega

/-! ### Widths of the multiplier (rule R151) -/

theorem product_le (a b : Word) : (decodeWord a).m * (decodeWord b).m ≤ 10723520179733761 := by
  obtain ⟨hma, -, -⟩ := decodeWord_range a
  obtain ⟨hmb, -, -⟩ := decodeWord_range b
  exact Nat.mul_le_mul hma hmb

/-- Settles O39: the widths follow from `product_le`, and the rescaled product has at most ten
digits, two above the eight of a normalised mantissa. -/
theorem mulWidths : Obligations.MulWidths := by
  refine ⟨fun a b => ?_, finalize_zero, fun n m e he => growLoop_exponent_ge n m he⟩
  have hprod := product_le a b
  have hrescaled : (decodeWord a).m * (decodeWord b).m / 10 ^ 7 ≤ 1072352017 :=
    Nat.div_le_div_right hprod
  exact ⟨hprod, hprod.trans_lt (by decide), hrescaled, hrescaled.trans_lt (by decide),
    fun e => shrinkLoop_le_of_lt_pow e (hrescaled.trans_lt (by decide))⟩

/-! ### Widths of the divider (rule R154) -/

/-- Region A restores a leading digit, and Region B's mantissas are multiples of ten. -/
theorem ten_le_of_mantissa_ne_zero {w : Word} (hm : (decodeWord w).m ≠ 0) :
    10 ≤ (decodeWord w).m := by
  obtain ⟨-, h, -⟩ | ⟨-, -, h, -⟩ | ⟨-, h, -⟩ := decodeWord_cases w
  · omega
  · omega
  · omega

theorem scaledDividend_le (a : Word) : (decodeWord a).m * 10 ^ 7 ≤ 1035544310000000 := by
  obtain ⟨hma, -, -⟩ := decodeWord_range a
  omega

/-- A zero divisor's quotient is the 0 of `Nat`, which DIV never finalises. -/
theorem quotient_le (a b : Word) :
    (decodeWord a).m * 10 ^ 7 / (decodeWord b).m ≤ 103554431000000 := by
  obtain hzero | hnonzero := eq_or_ne (decodeWord b).m 0
  · rw [hzero, Nat.div_zero]
    exact Nat.zero_le _
  · exact Nat.div_le_div (scaledDividend_le a) (ten_le_of_mantissa_ne_zero hnonzero) (by decide)

theorem divExponent_range (a b : Word) :
    -96 ≤ (decodeWord a).e - (decodeWord b).e ∧ (decodeWord a).e - (decodeWord b).e ≤ 96 := by
  obtain ⟨-, hloa, hhia⟩ := decodeWord_range a
  obtain ⟨-, hlob, hhib⟩ := decodeWord_range b
  omega

/-- Settles O40: the quotient has at most fifteen digits, seven above the eight of a normalised
mantissa, and a nonzero one lacks at most seven. -/
theorem divWidths : Obligations.DivWidths := by
  intro a b
  have hdividend := scaledDividend_le a
  have hquot := quotient_le a b
  exact ⟨hdividend, hdividend.trans_lt (by decide), ten_le_of_mantissa_ne_zero,
    hquot, hquot.trans_lt (by decide),
    fun e => shrinkLoop_le_of_lt_pow e (hquot.trans_lt (by decide)),
    fun q e hq => growLoop_ends_of_le_mul_pow e (Nat.le_mul_of_pos_left _ hq),
    finalize_zero, divExponent_range a b⟩

end Sys2Proof.Proofs

/-! PROOFS. The fields of a binary64 pattern as numbers, F2D's word for every pattern, the words that
leave D2F's table, the power-of-two tables against their formulas, and F2D's widths. -/

namespace Sys2Proof.Proofs

open Sys2Proof Sys2Proof.Machine Sys2Proof.Spec

/-! ### The fields of a binary64 pattern (rule R170) -/

theorem f64Sign_toNat (f : Binary64) : (f64Sign f).toNat = f.toNat / 2 ^ 63 := by
  have hf := f.isLt
  simp only [f64Sign, BitVec.extractLsb'_toNat, Nat.shiftRight_eq_div_pow]
  omega

theorem f64Exp_eq (f : Binary64) : f64Exp f = f.toNat / 2 ^ 52 % 2 ^ 11 := by
  rw [f64Exp, BitVec.extractLsb'_toNat, Nat.shiftRight_eq_div_pow]

theorem f64Frac_eq (f : Binary64) : f64Frac f = f.toNat % 2 ^ 52 := by
  rw [f64Frac, BitVec.extractLsb'_toNat, Nat.shiftRight_zero]

theorem f64Frac_lt (f : Binary64) : f64Frac f < 2 ^ 52 :=
  (f.extractLsb' 0 52).isLt

/-- A pattern is its three fields. -/
theorem f64_ext {x y : Binary64} (hs : f64Sign x = f64Sign y) (he : f64Exp x = f64Exp y)
    (hfrac : f64Frac x = f64Frac y) : x = y := by
  have hx := x.isLt
  have hy := y.isLt
  have hs' := congrArg BitVec.toNat hs
  rw [f64Sign_toNat, f64Sign_toNat] at hs'
  rw [f64Exp_eq, f64Exp_eq] at he
  rw [f64Frac_eq, f64Frac_eq] at hfrac
  exact BitVec.eq_of_toNat_eq (by omega)

theorem f64Class_eq_nan_iff (f : Binary64) :
    f64Class f = .nan ↔ f64Exp f = 2047 ∧ f64Frac f ≠ 0 := by
  simp only [f64Class]
  split_ifs <;> simp [*]

theorem f64Class_eq_normal_iff (f : Binary64) :
    f64Class f = .normal ↔ f64Exp f ≠ 0 ∧ f64Exp f ≠ 2047 := by
  simp only [f64Class]
  split_ifs <;> simp [*]

/-! ### F2D's word (rules R173 to R175) -/

/-- The values that the power-of-two tables serve. -/
theorem f2dInRange_iff (f : Binary64) :
    f2dInRange f = true ↔ (f64Exp f ≠ 0 ∧ f64Exp f ≠ 2047) ∧
      -179 ≤ f64Unbiased f ∧ f64Unbiased f ≤ 159 := by
  rw [f2dInRange, Bool.and_eq_true, Bool.and_eq_true, decide_eq_true_eq, decide_eq_true_eq,
    decide_eq_true_eq, f64Class_eq_normal_iff, and_assoc, xmin, xmax]

/-- The classes in the order of rule R173, each with its word in the plain form. -/
theorem f2dWord_eq_convertedWord (f : Binary64) :
    f2dWord f = convertedWord (f64Sign f).toNat (f64Exp f) (f64Frac f) := by
  have hsign : BitVec.ofNat 1 (f64Sign f).toNat = f64Sign f := by
    rw [BitVec.ofNat_toNat, BitVec.setWidth_eq]
  obtain ⟨hnan, h⟩ | ⟨hnan, hin, h⟩ | ⟨hnan, hout, h⟩ := f2dWord_cases f
  · rw [f64Class_eq_nan_iff] at hnan
    rw [h, qnanWord_eq_qnan, convertedWord, if_pos hnan]
  · obtain ⟨⟨hzero, hmax⟩, hlow, hhigh⟩ := (f2dInRange_iff f).1 hin
    rw [f64Unbiased] at hlow hhigh
    simp only [convertedWord, hzero, hmax, false_and, if_false, if_neg (not_lt.2 hhigh),
      if_neg (not_lt.2 hlow), hsign]
    exact h
  · rw [ne_eq, f64Class_eq_nan_iff] at hnan
    rw [← Bool.not_eq_true, f2dInRange_iff, f64Unbiased] at hout
    simp only [h, f2dFallback, f64Unbiased, xmax, convertedWord, if_neg hnan, infWord_eq_inf,
      zeroWord_eq_pack]
    split
    next => rfl
    next hmax =>
      split
      next => rfl
      next hzero =>
        split
        next => rfl
        next hhigh => rw [if_pos (by omega)]

/-- Settles O43: `f2dWord_eq_convertedWord` on F2D's result port, with the fields as numbers. -/
theorem f2dReturnsTheConvertedWord : Obligations.F2dReturnsTheConvertedWord := by
  intro f s
  rw [exec_f2d, drive_of_command (by decide), f2dWord_eq_convertedWord, f64Sign_toNat, f64Exp_eq,
    f64Frac_eq]

/-! ### The words that leave D2F's table (rule R183) -/

theorem f64QuietNaN_eq_ofNat (s : SignBit) :
    f64QuietNaN s = BitVec.ofNat 64 (s.toNat * 2 ^ 63 + 0x7FF8000000000000) := by
  revert s
  decide

/-- The decoder's exponent exceeds the table only at the top of Region B, where a leading digit of 3
in `F` adds to the largest `E`. -/
theorem decodeWord_exponent_gt_iff (w : Word) :
    47 < (decodeWord w).e ↔ expField w = 63 ∧ 30000000 ≤ mantField w := by
  have hE := expField_lt w
  have hF := mantField_lt w
  obtain ⟨hlow, -, he⟩ | ⟨h14, h49, -, he⟩ | ⟨hhigh, -, he⟩ := decodeWord_cases w
  · omega
  · omega
  · omega

theorem d2fBits_of_exponent_gt {w : Word} (he : 47 < (decodeWord w).e) :
    d2fBits w = BitVec.ofNat 64 (fieldS w * 2 ^ 63 + 0x7FF8000000000000) := by
  simp only [d2fBits, pow10Max, he, or_true, if_true, decodeWord_s, f64QuietNaN_eq_ofNat,
    signOf_toNat, fieldS]

/-- Settles O47: no decoded exponent is below the table, so leaving it is exceeding it, and 48 is the
decoder's largest exponent. -/
theorem d2fLeavesTheTableOnlyAtExponentFortyEight :
    Obligations.D2fLeavesTheTableOnlyAtExponentFortyEight := by
  intro w
  obtain ⟨-, hlo, hhi⟩ := decodeWord_range w
  rw [fieldE_eq_expField, fieldF_eq_mantField, ← decodeWord_exponent_gt_iff]
  exact ⟨by omega, fun he => ⟨by omega, d2fBits_of_exponent_gt he⟩, hlo⟩

/-! ### The power-of-two tables (rules R171 and R172)

The row of index `n = x + 179` belongs to `2^(x-22) = 2^n / 2^201`. Its significand before rounding,
`2^(x-22) * 10^(8-D)`, is the quotient of the natural numbers `pow2Numerator n` and
`pow2Denominator D`, and every clause of the rules compares this quotient with an integer. -/

/-- The row's index enters here alone. -/
def pow2Numerator (n : Nat) : Nat :=
  2 ^ n * 10 ^ 69

/-- The row's exponent, above the least of them, enters here alone. -/
def pow2Denominator (D : Int) : Nat :=
  2 ^ 201 * 10 ^ (D + 61).toNat

/-- What the rules say of the row of index `n`, multiplied out, and the ranges of its entries (rules
R172 and R176). -/
def Pow2RowFits (n : Nat) (row : Nat × Int) : Prop :=
  (10 ^ 8 * pow2Denominator row.2 ≤ pow2Numerator n ∧
    pow2Numerator n < 10 ^ 9 * pow2Denominator row.2) ∧
  row.1 = (2 * pow2Numerator n + pow2Denominator row.2) / (2 * pow2Denominator row.2) ∧
  (2 * (row.1 * pow2Denominator row.2) = 2 * pow2Numerator n + pow2Denominator row.2 ↔
    n = 187 ∨ n = 188) ∧
  (100000000 ≤ row.1 ∧ row.1 ≤ 995682444) ∧ -61 ≤ row.2 ∧ row.2 ≤ 41

/-- The tables are constants, so their rows are evaluated one by one, on natural numbers. -/
theorem pow2Rows_fit : ∀ n < 339, Pow2RowFits n (pow2Rows.getD n (0, 0)) := by
  unfold Pow2RowFits
  decide +kernel

/-- The row that the tables serve at `x`. -/
theorem pow2Row_fits {x : Int} (hlow : -179 ≤ x) (hhigh : x ≤ 159) :
    Pow2RowFits (x + 179).toNat (romPow2 x, romPow2Exp x) := by
  have hrow : (romPow2 x, romPow2Exp x) = pow2Rows.getD (x + 179).toNat (0, 0) := by
    rw [romPow2, romPow2Exp, pow2Row, xmin, Int.sub_neg]
  rw [hrow]
  exact pow2Rows_fit _ (by omega)

/-- A power whose exponent lies at or above `-k`, as a quotient of natural powers. -/
theorem zpow_eq_pow_toNat_div {b : ℚ} (hb : b ≠ 0) {z : Int} (k : Nat) (hz : 0 ≤ z + k) :
    b ^ z = b ^ (z + k).toNat / b ^ k := by
  rw [← zpow_natCast, ← zpow_natCast, ← zpow_sub₀ hb, Int.toNat_of_nonneg hz,
    Int.add_sub_cancel]

theorem pow2Denominator_pos (D : Int) : 0 < pow2Denominator D := by
  rw [pow2Denominator]
  positivity

/-- The significand of `2^(x-22)` before rounding (rule R171). -/
theorem scaled_power_eq_quotient {x D : Int} (hx : -179 ≤ x) (hD : -61 ≤ D) :
    (2 : ℚ) ^ (x - 22) * 10 ^ (8 - D) =
      (pow2Numerator (x + 179).toNat : ℚ) / pow2Denominator D := by
  have htwo : (2 : ℚ) ^ (x - 22) = 2 ^ (x + 179).toNat / 2 ^ 201 := by
    rw [zpow_eq_pow_toNat_div two_ne_zero 201 (by omega),
      show x - 22 + (201 : Nat) = x + 179 by omega]
  have hten : (10 : ℚ) ^ D = 10 ^ (D + 61).toNat / 10 ^ 61 :=
    zpow_eq_pow_toNat_div (by norm_num) 61 (by omega)
  rw [htwo, zpow_sub₀ (by norm_num), hten, pow2Numerator, pow2Denominator]
  push_cast
  field_simp
  norm_num

/-- Scaling by `10^(8-D)` turns a comparison with `10^(D+j)` into one with `10^(8+j)`. -/
theorem ten_zpow_eq_div (D j : Int) : (10 : ℚ) ^ (D + j) = 10 ^ (8 + j) / 10 ^ (8 - D) := by
  rw [← zpow_sub₀ (by norm_num)]
  congr 1
  omega

/-- `round_half_up` of rule R171 on a fraction is a division of natural numbers. -/
theorem floor_div_add_half {a b : Nat} (hb : 0 < b) :
    ⌊(a : ℚ) / b + 1 / 2⌋ = ((2 * a + b) / (2 * b) : Nat) := by
  have hsum : (a : ℚ) / b + 1 / 2 = ((2 * a + b : Nat) : ℚ) / (2 * b : Nat) := by
    push_cast
    field_simp
  rw [hsum, Rat.floor_natCast_div_natCast, Int.natCast_div]

theorem sub_div_eq_half_iff {p a b : Nat} (hb : 0 < b) :
    (p : ℚ) - a / b = 1 / 2 ↔ 2 * (p * b) = 2 * a + b := by
  have hb' : (b : ℚ) ≠ 0 := by positivity
  rw [sub_eq_iff_eq_add, div_add_div _ _ two_ne_zero hb', eq_div_iff (by positivity),
    ← Nat.cast_inj (R := ℚ)]
  push_cast
  constructor <;> intro h <;> linarith

/-- Settles O41: the clauses compare the scaled power with `10^8`, `10^9`, its rounding and its tie,
which are those of the row. -/
theorem powerOfTwoTablesFollowTheirFormulas :
    Obligations.PowerOfTwoTablesFollowTheirFormulas := by
  intro x hlow hhigh
  obtain ⟨⟨hle, hlt⟩, hround, htie, ⟨hPlow, hPhigh⟩, hD, -⟩ := pow2Row_fits hlow hhigh
  dsimp only at hle hlt hround htie hPlow hPhigh hD
  have hpos : (0 : ℚ) < 10 ^ (8 - romPow2Exp x) := by positivity
  have hden := pow2Denominator_pos (romPow2Exp x)
  have hden' : (0 : ℚ) < pow2Denominator (romPow2Exp x) := Nat.cast_pos.2 hden
  have hscaled := scaled_power_eq_quotient hlow hD
  refine ⟨?_, ?_, ?_, hPlow, by omega, ?_⟩
  · have h := ten_zpow_eq_div (romPow2Exp x) 0
    rw [add_zero] at h
    rw [h, div_le_iff₀ hpos, hscaled, le_div_iff₀ hden']
    exact_mod_cast hle
  · rw [ten_zpow_eq_div, lt_div_iff₀ hpos, hscaled, div_lt_iff₀ hden']
    exact_mod_cast hlt
  · rw [hscaled, floor_div_add_half hden, ← hround]
  · rw [hscaled, sub_div_eq_half_iff hden, htie]
    omega

/-! ### The widths of F2D (rule R176) -/

theorem f2dRescaled_lt (f : Binary64) : f2dRescaled f < 2 ^ 23 := by
  have hfrac := f64Frac_lt f
  rw [f2dRescaled]
  omega

/-- Settles O44: the significand's 53 bits leave 23 after rescaling, and the tables' ranges give the
rest. -/
theorem f2dWidths : Obligations.F2dWidths := by
  intro f hin
  have hfrac := f64Frac_lt f
  have hm7 := f2dRescaled_lt f
  obtain ⟨-, hlow, hhigh⟩ := (f2dInRange_iff f).1 hin
  obtain ⟨-, -, -, ⟨-, hP⟩, hDlow, hDhigh⟩ := pow2Row_fits hlow hhigh
  have hproduct : f2dRescaled f * romPow2 (f64Unbiased f) ≤ 8388607 * 995682444 :=
    Nat.mul_le_mul (by omega) hP
  have hmagnitude : f2dMagnitude f ≤ 835238872 :=
    Nat.div_le_div_right (Nat.add_le_add_right hproduct 5000000)
  exact ⟨by omega, hm7, hproduct, by omega, hmagnitude, by omega, by omega, by omega⟩

end Sys2Proof.Proofs

/-! PROOFS. Binary64 values as integer multiples of the smallest subnormal, the gap between a normal
value and every other finite value, and the power-of-ten table against its formula. -/

namespace Sys2Proof.Proofs

open Sys2Proof Sys2Proof.Machine Sys2Proof.Spec

/-! ### Binary64 values in units of the smallest subnormal (rule R170) -/

/-- The magnitude of a finite value in units of `2^-1074`. -/
def f64Magnitude (f : Binary64) : Nat :=
  f64Significand f * 2 ^ (f64Exp f - 1)

/-- The finite value itself in these units. -/
def f64Units (f : Binary64) : Int :=
  signedMagnitude (f64Sign f) (f64Magnitude f)

/-- How many of these units make 1. -/
def f64UnitsPerOne : Nat :=
  2 ^ 1074

theorem f64UnitsPerOne_pos : 0 < f64UnitsPerOne := by
  rw [f64UnitsPerOne]
  positivity

theorem f64Significand_of_normal {f : Binary64} (hf : f64Exp f ≠ 0) :
    f64Significand f = 2 ^ 52 + f64Frac f :=
  if_neg hf

theorem f64Significand_of_tiny {f : Binary64} (hf : f64Exp f = 0) :
    f64Significand f = f64Frac f :=
  if_pos hf

theorem signedMagnitude_cast (s : SignBit) (m : Nat) :
    (signedMagnitude s m : ℚ) = signFactor s * m := by
  obtain rfl | rfl := signBit_cases s
  · rw [signedMagnitude_positive, signFactor, if_neg (by decide), one_mul, Int.cast_natCast]
  · rw [signedMagnitude_negative, signFactor, if_pos rfl, neg_one_mul, Int.cast_neg,
      Int.cast_natCast]

/-- The exponents 0 and 1 share the smallest scale. -/
theorem two_zpow_f64Scale (f : Binary64) :
    (2 : ℚ) ^ f64Scale f = 2 ^ (f64Exp f - 1) / f64UnitsPerOne := by
  have hscale : 0 ≤ f64Scale f + (1074 : Nat) ∧
      (f64Scale f + (1074 : Nat)).toNat = f64Exp f - 1 := by
    rw [f64Scale]
    split <;> omega
  obtain ⟨hnonneg, hnat⟩ := hscale
  rw [zpow_eq_pow_toNat_div two_ne_zero 1074 hnonneg, hnat, f64UnitsPerOne, Nat.cast_pow,
    Nat.cast_two]

theorem f64Value_eq_units_div (f : Binary64) :
    f64Value f = (f64Units f : ℚ) / f64UnitsPerOne := by
  rw [f64Value, two_zpow_f64Scale, f64Units, signedMagnitude_cast, f64Magnitude, Nat.cast_mul,
    Nat.cast_pow, Nat.cast_two]
  ring

/-! ### The gap around a normal value -/

/-- A lower bound on twice the distance, in units, from a normal value to any other finite value. At a
power of two the values below are half as far apart as those above. -/
def f64Gap (f : Binary64) : Nat :=
  if f64Frac f = 0 then 2 ^ (f64Exp f - 1) else 2 * 2 ^ (f64Exp f - 1)

theorem f64Gap_le (f : Binary64) : f64Gap f ≤ 2 * 2 ^ (f64Exp f - 1) := by
  rw [f64Gap]
  split <;> omega

theorem pow_f64Exp_of_normal {f : Binary64} (hf : f64Exp f ≠ 0) :
    2 ^ f64Exp f = 2 * 2 ^ (f64Exp f - 1) := by
  rw [← Nat.pow_succ', Nat.succ_eq_add_one, Nat.sub_add_cancel (Nat.one_le_iff_ne_zero.2 hf)]

theorem f64Magnitude_of_normal {f : Binary64} (hf : f64Exp f ≠ 0) :
    f64Magnitude f = 2 ^ 52 * 2 ^ (f64Exp f - 1) + f64Frac f * 2 ^ (f64Exp f - 1) := by
  rw [f64Magnitude, f64Significand_of_normal hf, Nat.add_mul]

/-- A magnitude of exponent `E` stays half a place below the first of exponent `E + 1`. -/
theorem two_mul_f64Magnitude_le (f : Binary64) :
    2 * f64Magnitude f + 2 ^ f64Exp f ≤ 2 ^ 53 * 2 ^ f64Exp f := by
  have hfrac := f64Frac_lt f
  obtain hf | hf := eq_or_ne (f64Exp f) 0
  · rw [f64Magnitude, f64Significand_of_tiny hf, hf]
    omega
  · have hlast : (f64Frac f + 1) * 2 ^ (f64Exp f - 1) ≤ 2 ^ 52 * 2 ^ (f64Exp f - 1) :=
      Nat.mul_le_mul_right _ hfrac
    rw [Nat.add_mul, Nat.one_mul] at hlast
    rw [f64Magnitude_of_normal hf, pow_f64Exp_of_normal hf]
    omega

/-- A normal value lies its gap above the last value of the exponent below. -/
theorem f64Gap_add_le {f : Binary64} (hf : f64Exp f ≠ 0) :
    2 ^ 53 * 2 ^ (f64Exp f - 1) + f64Gap f ≤ 2 * f64Magnitude f + 2 ^ (f64Exp f - 1) := by
  rw [f64Magnitude_of_normal hf, f64Gap]
  split
  next => omega
  next hfrac =>
    have hstep : 1 * 2 ^ (f64Exp f - 1) ≤ f64Frac f * 2 ^ (f64Exp f - 1) :=
      Nat.mul_le_mul_right _ (Nat.one_le_iff_ne_zero.2 hfrac)
    omega

theorem f64Gap_le_two_mul_f64Magnitude {f : Binary64} (hf : f64Exp f ≠ 0) :
    f64Gap f ≤ 2 * f64Magnitude f := by
  have hgap := f64Gap_add_le hf
  omega

/-- Smaller exponents: the largest magnitude of one is still the gap away. -/
theorem f64Magnitude_apart_of_exp_lt {f y : Binary64} (hexp : f64Exp y < f64Exp f) :
    2 * f64Magnitude y + f64Gap f ≤ 2 * f64Magnitude f := by
  have hgap := f64Gap_add_le (f := f) (by omega)
  have hy := two_mul_f64Magnitude_le y
  have hpow : 2 ^ f64Exp y ≤ 2 ^ (f64Exp f - 1) := Nat.pow_le_pow_right two_pos (by omega)
  omega

/-- Larger exponents: their first magnitude is two places above the bound on the normal value. -/
theorem f64Magnitude_apart_of_lt_exp {f y : Binary64} (hf : f64Exp f ≠ 0)
    (hexp : f64Exp f < f64Exp y) : 2 * f64Magnitude f + f64Gap f ≤ 2 * f64Magnitude y := by
  have hgap := f64Gap_le f
  have hmag := two_mul_f64Magnitude_le f
  have hy := f64Magnitude_of_normal (f := y) (by omega)
  have hpow : 2 ^ f64Exp f ≤ 2 ^ (f64Exp y - 1) := Nat.pow_le_pow_right two_pos (by omega)
  rw [← pow_f64Exp_of_normal hf] at hgap
  omega

/-- One exponent: the fractions differ by at least one place. -/
theorem f64Magnitude_apart_of_frac_lt {x y : Binary64} (hx : f64Exp x ≠ 0)
    (hexp : f64Exp x = f64Exp y) (hfrac : f64Frac x < f64Frac y) :
    2 * f64Magnitude x + 2 * 2 ^ (f64Exp x - 1) ≤ 2 * f64Magnitude y := by
  have hstep : (f64Frac x + 1) * 2 ^ (f64Exp x - 1) ≤ f64Frac y * 2 ^ (f64Exp x - 1) :=
    Nat.mul_le_mul_right _ hfrac
  rw [Nat.add_mul, Nat.one_mul] at hstep
  rw [f64Magnitude_of_normal hx, f64Magnitude_of_normal (hexp ▸ hx), ← hexp]
  omega

/-- The magnitudes of a normal value and of a value that differs in another field than the sign are
the gap apart. -/
theorem f64Magnitude_apart {f y : Binary64} (hf : f64Exp f ≠ 0)
    (hne : f64Exp y ≠ f64Exp f ∨ f64Frac y ≠ f64Frac f) :
    2 * f64Magnitude y + f64Gap f ≤ 2 * f64Magnitude f ∨
      2 * f64Magnitude f + f64Gap f ≤ 2 * f64Magnitude y := by
  have hgap := f64Gap_le f
  obtain hexp | hexp | hexp := lt_trichotomy (f64Exp y) (f64Exp f)
  · exact .inl (f64Magnitude_apart_of_exp_lt hexp)
  · obtain hfrac | hfrac | hfrac := lt_trichotomy (f64Frac y) (f64Frac f)
    · have h := f64Magnitude_apart_of_frac_lt (hexp ▸ hf) hexp hfrac
      rw [hexp] at h
      exact .inl (by omega)
    · exact absurd hne (by simp [hexp, hfrac])
    · have h := f64Magnitude_apart_of_frac_lt hf hexp.symm hfrac
      exact .inr (by omega)
  · exact .inr (f64Magnitude_apart_of_lt_exp hf hexp)

/-- A value of the other sign lies beyond zero, which is further than the gap. -/
theorem f64Gap_le_distance {f y : Binary64} (hf : f64Exp f ≠ 0) (hne : y ≠ f) :
    f64Gap f ≤ 2 * (f64Units y - f64Units f).natAbs := by
  have hzero := f64Gap_le_two_mul_f64Magnitude hf
  rw [f64Units, f64Units]
  obtain hs | hs := eq_or_ne (f64Sign y) (f64Sign f)
  · have hfields : f64Exp y ≠ f64Exp f ∨ f64Frac y ≠ f64Frac f := by
      by_contra hsame
      rw [not_or, not_ne_iff, not_ne_iff] at hsame
      obtain ⟨hexp, hfrac⟩ := hsame
      exact hne (f64_ext hs hexp hfrac)
    have hapart := f64Magnitude_apart hf hfields
    rw [hs]
    obtain h | h := signBit_cases (f64Sign f)
    all_goals
      rw [h]
      simp only [signedMagnitude_positive, signedMagnitude_negative]
      omega
  · obtain ⟨hy, hf⟩ | ⟨hy, hf⟩ := signBit_cases_of_ne hs
    all_goals
      rw [hy, hf]
      simp only [signedMagnitude_positive, signedMagnitude_negative]
      omega

/-! ### The power-of-ten table (rule R181) -/

/-- The distance from a finite value to `10^(n-54)`, in units of `2^-1074 * 10^-54`. -/
def pow10Error (n : Nat) (f : Binary64) : Nat :=
  (10 ^ 54 * f64Units f - (10 ^ n * f64UnitsPerOne : Nat)).natAbs

/-- What makes an entry the nearest value to `10^(n-54)`: its error is at most half the distance to
any other value, and where it is exactly half, the entry's fraction is even. -/
def Pow10RowNearest (n : Nat) (entry : Binary64) : Prop :=
  (f64Exp entry ≠ 0 ∧ f64Exp entry ≠ 2047) ∧
  4 * pow10Error n entry ≤ 10 ^ 54 * f64Gap entry ∧
  (4 * pow10Error n entry = 10 ^ 54 * f64Gap entry → f64Frac entry % 2 = 0) ∧
  (54 ≤ n → n ≤ 76 → pow10Error n entry = 0)

/-- The entries are constants too. The tie is the one at `10^23`. -/
theorem pow10Rows_nearest : ∀ n < 102, Pow10RowNearest n (pow10Rows.getD n 0) := by
  unfold Pow10RowNearest
  decide +kernel

/-- The entry that the table serves at `e`. -/
theorem romPow10_nearest {e : Int} (hlow : -54 ≤ e) (hhigh : e ≤ 47) :
    Pow10RowNearest (e + 54).toNat (romPow10 e) := by
  rw [romPow10, pow10Min, Int.sub_neg]
  exact pow10Rows_nearest _ (by omega)

/-- Two different values cannot both be near: their errors make up the gap between them. -/
theorem f64Gap_le_errors (n : Nat) {f y : Binary64} (hf : f64Exp f ≠ 0) (hne : y ≠ f) :
    10 ^ 54 * f64Gap f ≤ 2 * (pow10Error n y + pow10Error n f) := by
  have hgap := f64Gap_le_distance hf hne
  rw [pow10Error, pow10Error]
  omega

theorem abs_f64Value_sub_eq (f : Binary64) {e : Int} (he : -54 ≤ e) :
    |f64Value f - (10 : ℚ) ^ e| =
      (pow10Error (e + 54).toNat f : ℚ) / (10 ^ 54 * f64UnitsPerOne : Nat) := by
  have hunits : (f64UnitsPerOne : ℚ) ≠ 0 := Nat.cast_ne_zero.2 f64UnitsPerOne_pos.ne'
  have hten : (10 : ℚ) ^ e = 10 ^ (e + 54).toNat / 10 ^ 54 :=
    zpow_eq_pow_toNat_div (by norm_num) 54 (by omega)
  have hdiff : f64Value f - (10 : ℚ) ^ e =
      ((10 ^ 54 * f64Units f - (10 ^ (e + 54).toNat * f64UnitsPerOne : Nat) : Int) : ℚ) /
        (10 ^ 54 * f64UnitsPerOne : Nat) := by
    rw [f64Value_eq_units_div, hten, div_sub_div _ _ hunits (by positivity)]
    push_cast
    ring
  rw [hdiff, abs_div, pow10Error, Nat.cast_natAbs, Int.cast_abs, Nat.abs_cast]

/-- Settles O42: all distances to `10^e` have one denominator, and the errors above it obey
`f64Gap_le_errors`, so that another value's error is larger, or equal in a tie. -/
theorem powerOfTenTableIsNearest : Obligations.PowerOfTenTableIsNearest := by
  intro e hlow hhigh
  obtain ⟨⟨hnormal, hfinite⟩, hhalf, htie, hexact⟩ := romPow10_nearest hlow hhigh
  have hden : (0 : ℚ) < (10 ^ 54 * f64UnitsPerOne : Nat) :=
    Nat.cast_pos.2 (Nat.mul_pos (by decide) f64UnitsPerOne_pos)
  refine ⟨hfinite, fun y _ hne => ?_, fun h0 h22 => ?_⟩
  · have herrors := f64Gap_le_errors (e + 54).toNat hnormal hne
    rw [abs_f64Value_sub_eq _ hlow, abs_f64Value_sub_eq _ hlow, div_lt_div_iff_of_pos_right hden,
      div_left_inj' hden.ne', Nat.cast_lt, Nat.cast_inj]
    obtain hlt | hge := Nat.lt_or_ge (pow10Error (e + 54).toNat (romPow10 e))
      (pow10Error (e + 54).toNat y)
    · exact .inl hlt
    · exact .inr ⟨by omega, htie (by omega)⟩
  · rw [← sub_eq_zero, ← abs_eq_zero, abs_f64Value_sub_eq _ hlow,
      hexact (by omega) (by omega), Nat.cast_zero, zero_div]

end Sys2Proof.Proofs

/-! PROOFS. The renderer: characters as bytes, a text on its port, the checks of rule R190 as
conditions on the fields, and the obligation on the bytes that FMT drives. -/

namespace Sys2Proof.Proofs

open Sys2Proof Sys2Proof.Machine Sys2Proof.Safety Sys2Proof.Spec

/-! ### The sign as a number -/

theorem signBit_eq_one_iff (s : SignBit) : s = 1#1 ↔ s.toNat = 1 :=
  BitVec.toNat_inj.symm

theorem fieldS_eq_signOf_toNat (w : Word) : fieldS w = (signOf w).toNat :=
  (signOf_toNat w).symm

/-! ### Characters as bytes (rule R45) -/

@[simp] theorem asciiByte_signChar (negative : Prop) [Decidable negative] :
    asciiByte (signChar (decide negative)) = signCode negative := by
  rw [signChar, signCode]
  split
  next h => rw [if_pos (of_decide_eq_true h)]; rfl
  next h => rw [if_neg fun hneg => h (decide_eq_true hneg)]; rfl

@[simp] theorem asciiByte_digitChar (n k : Nat) : asciiByte (digitChar n k) = digitCode n k := by
  have hdigit : n / 10 ^ k % 10 < 10 := Nat.mod_lt _ (by decide)
  have hvalid : (0x30 + n / 10 ^ k % 10).isValidChar := .inl (by omega)
  exact congrArg (BitVec.ofNat 8) ((Char.toNat_ofNat _).trans (if_pos hvalid))

/-! ### A text on its port (rule R191) -/

/-- The port holds the bytes of the text and then 0x00 to the end. -/
theorem textPort_eq_of_toList {t : List Char} {v : Vector Byte 15}
    (hv : v.toList = t.map asciiByte ++ List.replicate (15 - t.length) 0x00#8) :
    textPort t = v := by
  ext1 i hi
  have hread : v[i] = (t.map asciiByte ++ List.replicate (15 - t.length) 0x00#8).getD i 0x00#8 := by
    rw [← hv, List.getD_eq_getElem _ _ (by simpa using hi), Vector.getElem_toList]
  rw [hread, textPort, Vector.getElem_ofFn]
  obtain hlt | hge := Nat.lt_or_ge i (t.map asciiByte).length
  · exact (List.getD_append _ _ _ _ hlt).symm
  · rw [List.getD_append_right _ _ _ _ hge, List.getD_eq_default _ _ hge, List.getD_replicate]
    rw [List.length_map] at hge ⊢
    omega

/-- The fourteen characters of the generic text, then the terminator. -/
theorem textPort_genericText (t : Triple) :
    textPort (genericText t) = genericBytes t.s.toNat t.m t.e := by
  apply textPort_eq_of_toList
  simp only [genericText, genericBytes, List.map_cons, asciiByte_signChar, asciiByte_digitChar,
    signBit_eq_one_iff]
  rfl

/-! ### The checks in their order (rule R190) -/

/-- Check 1 reads the word without its sign. -/
theorem magnitude_eq_infinity_iff_toNat (w : Word) :
    magnitude w = (0x7F800000#32).extractLsb' 0 31 ↔ w.toNat % 2 ^ 31 = 0x7F800000 := by
  rw [← BitVec.toNat_inj, magnitude, BitVec.extractLsb'_toNat, Nat.shiftRight_zero]
  exact Iff.rfl

/-- The class of a word, with the fields as numbers. -/
theorem classify_eq (w : Word) :
    classify w =
      if w.toNat % 2 ^ 31 = 0x7F800000 then .infinity
      else if (decodeWord w).e = 47 ∧ 50000000 < (decodeWord w).m then .nan
      else if 30000000 ≤ fieldF w then .nan
      else if (fieldE w ≤ 13 ∨ 50 ≤ fieldE w) ∧ (decodeWord w).e ≠ -48 ∧
        fieldF w % 10 ^ 7 < 1000000 then .nan
      else .valid := by
  simp only [classify, magnitude_eq_infinity_iff_toNat, fieldE_eq_expField, fieldF_eq_mantField]

/-! ### The text by class (rules R190 and R191) -/

theorem renderText_of_infinity {w : Word} (h : classify w = .infinity) :
    renderText w =
      signChar (decide (signOf w = 1#1)) :: ['I', 'n', 'f', 'i', 'n', 'i', 't', 'y'] := by
  rw [renderText, h]

theorem renderText_of_nan {w : Word} (h : classify w = .nan) :
    renderText w = ['N', 'a', 'N'] := by
  rw [renderText, h]

theorem renderText_of_valid {w : Word} (h : classify w = .valid) :
    renderText w = genericText (decodeWord w) := by
  rw [renderText, h]

theorem rendererUnit_of_infinity {w : Word} (h : classify w = .infinity) :
    rendererUnit w = infinityText (signCode (fieldS w = 1)) := by
  rw [rendererUnit, renderText_of_infinity h, fieldS_eq_signOf_toNat]
  apply textPort_eq_of_toList
  simp only [List.map_cons, asciiByte_signChar, signBit_eq_one_iff]
  rfl

theorem rendererUnit_of_nan {w : Word} (h : classify w = .nan) : rendererUnit w = nanText := by
  rw [rendererUnit, renderText_of_nan h]
  exact textPort_eq_of_toList (by decide)

theorem rendererUnit_of_valid {w : Word} (h : classify w = .valid) :
    rendererUnit w = genericBytes (fieldS w) (decodeWord w).m (decodeWord w).e := by
  rw [rendererUnit, renderText_of_valid h, textPort_genericText, decodeWord_s,
    fieldS_eq_signOf_toNat]

theorem exec_fmt (w : Word) (s : State) :
    exec (.fmt w) s = .next { s with out := .text (rendererUnit w), illegal := false } := by
  rw [exec, execFmt, drive_of_command (by decide)]

/-- Settles O51: the checks give the word's class in their order, and each class its own text. -/
theorem fmtDrivesTheRuleBytes : Obligations.FmtDrivesTheRuleBytes := by
  intro w s
  have hclass := classify_eq w
  rw [exec_fmt]
  congr 3
  split_ifs at hclass ⊢ with hinf hceil hfield hlead
  · exact rendererUnit_of_infinity hclass
  · exact rendererUnit_of_nan hclass
  · exact rendererUnit_of_nan hclass
  · exact rendererUnit_of_nan hclass
  · exact rendererUnit_of_valid hclass

end Sys2Proof.Proofs

/-! PROOFS. The command view: the port image, the decoder's choice of row, what a step runs, and the
obligations on steps, presented commands, stored words and spelt commands. -/

namespace Sys2Proof.Proofs

open Sys2Proof Sys2Proof.Machine Sys2Proof.Safety Sys2Proof.Spec

/-! ### The port image (log entry 2) -/

/-- Each port is cut out where it was appended: the cut passes over the ports below, and the ports
above fall away. -/
theorem unpackPorts_packPorts (p : Ports) : unpackPorts (packPorts p) = p := by
  obtain ⟨op, sign, mant8, lead, trail, exp, w, x, amt, a, b, f⟩ := p
  rw [unpackPorts, packPorts, Ports.mk.injEq]
  refine ⟨?_, ?_, ?_, ?_, ?_, ?_, ?_, ?_, ?_, ?_, ?_, ?highest⟩
  case highest =>
    repeat rw [BitVec.extractLsb'_append_eq_of_le (by decide)]
    exact BitVec.extractLsb'_eq_self
  all_goals
    repeat rw [BitVec.extractLsb'_append_eq_of_le (by decide)]
    exact BitVec.extractLsb'_append_eq_right

/-- Neighbouring cuts join to one longer cut, and all of them to the whole image. -/
theorem packPorts_unpackPorts (v : PortImage) : packPorts (unpackPorts v) = v := by
  rw [packPorts, unpackPorts]
  repeat rw [BitVec.extractLsb'_append_extractLsb'_eq_extractLsb' (by decide)]
  exact BitVec.extractLsb'_eq_self

/-- Settles O1: packing and unpacking are inverse either way round. -/
theorem portImageRoundTrip : Obligations.PortImageRoundTrip :=
  ⟨unpackPorts_packPorts, packPorts_unpackPorts⟩

/-! ### The decoder's choice of row (rules R62, R63 and R73) -/

/-- The op code that the encoder drives selects the command's row, which reads the ports that the
encoder drives for it. -/
@[simp] theorem decode_encode (i : Instr) : decode (encode i) = i := by
  cases i <;> rfl

/-- Settles O2: the image gives the ports back, and the ports the command. -/
theorem encodedCommandsDecode : Obligations.EncodedCommandsDecode := by
  intro i
  rw [decodeImage, encodeImage, unpackPorts_packPorts, decode_encode]

theorem opBits_cases (op : OpBits) :
    op = 0x0 ∨ op = 0x1 ∨ op = 0x2 ∨ op = 0x3 ∨ op = 0x4 ∨ op = 0x5 ∨ op = 0x6 ∨ op = 0x7 ∨
    op = 0x8 ∨ op = 0x9 ∨ op = 0xA ∨ op = 0xB ∨ op = 0xC ∨ op = 0xD ∨ op = 0xE ∨ op = 0xF := by
  revert op
  decide

/-- Settles O3: the common op code selects one row of rule R62, and both settings agree on the ports
that this row reads. -/
theorem unnamedPortsAreIgnored : Obligations.UnnamedPortsAreIgnored := by
  rintro ⟨op, sign, mant8, lead, trail, exp, w, x, amt, a, b, f⟩
    ⟨_, sign', mant8', lead', trail', exp', w', x', amt', a', b', f'⟩
    ⟨rfl, hencm, hencd, hword, hshift, hneg, hpair, hbinary⟩
  dsimp only at hencm hencd hword hshift hneg hpair hbinary
  obtain rfl | rfl | rfl | rfl | rfl | rfl | rfl | rfl | rfl | rfl | rfl | rfl | rfl | rfl | rfl |
    rfl := opBits_cases op
  · obtain ⟨rfl, rfl, rfl⟩ := hencm rfl
    rfl
  · obtain ⟨rfl, rfl, rfl, rfl⟩ := hencd rfl
    rfl
  · obtain rfl := hword (.inl rfl)
    rfl
  · obtain ⟨rfl, rfl⟩ := hshift rfl
    rfl
  · obtain ⟨rfl, rfl⟩ := hpair (.inl rfl)
    rfl
  · obtain ⟨rfl, rfl⟩ := hpair (.inr (.inl rfl))
    rfl
  · obtain rfl := hneg rfl
    rfl
  · obtain ⟨rfl, rfl⟩ := hpair (.inr (.inr (.inl rfl)))
    rfl
  · obtain ⟨rfl, rfl⟩ := hpair (.inr (.inr (.inr rfl)))
    rfl
  · obtain rfl := hbinary rfl
    rfl
  · obtain rfl := hword (.inr (.inl rfl))
    rfl
  · obtain rfl := hword (.inr (.inr rfl))
    rfl
  all_goals rfl

/-- Settles O4: the images are constants, decoded by evaluation. -/
theorem tableWordsDecodeToTheirRows : Obligations.TableWordsDecodeToTheirRows := by
  unfold Obligations.TableWordsDecodeToTheirRows
  decide

/-! ### What a step runs (rules R9, R62 and R200) -/

theorem step_of_decode {s : State} {i : Instr} (hi : decode s.ins = i) : step s = exec i s := by
  rw [step, hi]

theorem step_present (s : State) (i : Instr) : step (s.present i) = exec i (s.present i) :=
  step_of_decode (by rw [State.present_ins, decode_encode])

/-- Settles O5: a presented command decodes to itself, and a placed word to the command that its
bits name. -/
theorem stepRunsTheDecodedCommand : Obligations.StepRunsTheDecodedCommand := by
  refine ⟨fun s i => step_of_decode, step_present, fun s nbits w i hi => ?_⟩
  rw [decodeTableWord, Option.some_inj, decodeImage] at hi
  exact step_of_decode (by rw [State.withFetchWord_ins, hi])

/-- Settles O8: a step drives outputs and leaves the input ports. -/
theorem everyInvocationCompletes : Obligations.EveryInvocationCompletes := by
  intro s
  obtain ⟨r, hr⟩ := step_drives s
  exact ⟨_, hr, State.drive_ins s s.ins.op r⟩

/-- Settles O10: presenting puts the same command on the ports of both states, and a command's
results and strobe do not depend on the state it runs in. -/
theorem invocationsDoNotDependOnOrder : Obligations.InvocationsDoNotDependOnOrder := by
  intro s t i j _
  obtain ⟨r, hr⟩ := exec_drives_same i
  exact ⟨_, _, (step_present t i).trans (hr _), (step_present s i).trans (hr _), rfl, rfl⟩

/-- Settles O11: ENCM of the mantissa 0 at the exponent 0 is evaluated. -/
theorem resetOutputsFollowInputs : Obligations.ResetOutputsFollowInputs :=
  ⟨rfl, rfl⟩

/-- Settles O59: each form of the encoder and each mode of the adder by its own lemma. -/
theorem unitsSelectTheirForms : Obligations.UnitsSelectTheirForms :=
  ⟨fun sign mant8 lead trail exp => ⟨encoderUnit_mantissa sign mant8 lead trail exp,
      encoderUnit_digits sign mant8 lead trail exp⟩,
    fun a b => ⟨adderUnit_add a b, adderUnit_sub a b, adderUnit_neg a b,
      adderUnit_reserved_mode a b⟩⟩

/-! ### Stored words (rule R43) -/

/-- The four bytes of a word, joined from the top byte down. -/
theorem append_bytes (w : Word) :
    w.extractLsb' 24 8 ++ w.extractLsb' 16 8 ++ w.extractLsb' 8 8 ++ w.extractLsb' 0 8 = w := by
  repeat rw [BitVec.extractLsb'_append_extractLsb'_eq_extractLsb' (by decide)]
  exact BitVec.extractLsb'_eq_self

theorem wordOfBytes_wordToBytes (o : ByteOrder) (w : Word) :
    wordOfBytes o (wordToBytes o w) = w := by
  cases o with
  | big => exact append_bytes w
  | little => exact append_bytes w

/-- Settles O56: either order joins the bytes in the order in which it cut them, and so does the
open one; the first big-endian byte is the cut at bit 24. -/
theorem storedWordsComeBack : Obligations.StoredWordsComeBack := by
  refine ⟨wordOfBytes_wordToBytes, wordOfBytes_wordToBytes Config.wordByteOrder, fun w => rfl,
    fun w => ?_⟩
  have hw := w.isLt
  have htop : (wordToBytes .big w)[0] = w.extractLsb' 24 8 := rfl
  rw [htop, BitVec.extractLsb'_toNat, Nat.shiftRight_eq_div_pow]
  omega

/-! ### Spelt commands (rule R69) -/

@[simp] theorem toSign_sign (s : SignBit) : (Spelling.sign (decide (s = 1#1))).toSign = some s := by
  revert s
  decide

/-- A pattern port's value is read back from its hex spelling of the port's length. -/
theorem toPattern_hex_toNat {n : Nat} (digits : Nat) (hdigits : 4 * digits = n) (v : BitVec n) :
    (Spelling.hex digits v.toNat).toPattern n = some v := by
  rw [Spelling.toPattern, if_pos ⟨hdigits, v.isLt⟩, BitVec.ofNat_toNat, BitVec.setWidth_eq]

@[simp] theorem toPattern_word (v : Word) : (Spelling.hex 8 v.toNat).toPattern 32 = some v :=
  toPattern_hex_toNat 8 rfl v

@[simp] theorem toPattern_binary64 (v : Binary64) :
    (Spelling.hex 16 v.toNat).toPattern 64 = some v :=
  toPattern_hex_toNat 16 rfl v

theorem lookup_mnemonic_of_wellFormed {i : Instr} (hi : i.wellFormed = true) :
    commandNames.lookup (mnemonicOf i) = some i.opcode := by
  cases i with
  | reservedC | reservedD | reservedE | reservedF => cases hi
  | _ =>
    simp only [mnemonicOf, Instr.opcode]
    decide

/-- Each operand is read back from its spelling, so the row gets the command's own operands. -/
theorem buildCommand_spellings {i : Instr} (hi : i.wellFormed = true) :
    buildCommand i.opcode (spellingsOf i) = some i := by
  cases i with
  | reservedC | reservedD | reservedE | reservedF => cases hi
  | _ => simp [buildCommand, spellingsOf, Instr.opcode]

/-- The reserved rows' names stand in no list of names (log entry 14). -/
theorem lookup_mnemonic_of_not_wellFormed {i : Instr} (hi : i.wellFormed = false) :
    commandNames.lookup (mnemonicOf i) = none := by
  cases i with
  | reservedC | reservedD | reservedE | reservedF => decide
  | _ => cases hi

/-- Settles O57: the mnemonic names the row and the spellings its operands; a reserved row's name
stops at the list of names. -/
theorem speltCommandsAssemble : Obligations.SpeltCommandsAssemble := by
  refine ⟨fun i hi => ?_, fun i hi => ?_⟩
  · simp only [assemble, lookup_mnemonic_of_wellFormed hi, buildCommand_spellings hi]
  · simp only [assemble, lookup_mnemonic_of_not_wellFormed hi]

end Sys2Proof.Proofs

/-! PROOFS. DEC of the encoder's words, the caller obligations, what finalisation loses, and the
obligations on the sums, products and quotients that it rounds. -/

namespace Sys2Proof.Proofs

open Sys2Proof Sys2Proof.Machine Sys2Proof.Spec

/-! ### DEC of the encoder's words (rules R101 and R103) -/

/-- The mantissa that a word of exponent `e` keeps: all 8 digits in Region A, and 7 in Region B. -/
def keptMantissa (m : Nat) (e : Int) : Nat :=
  if -6 ≤ e ∧ e ≤ 5 then m else 10 * (m / 10)

theorem keptMantissa_regionA {m : Nat} {e : Int} (h1 : -6 ≤ e) (h2 : e ≤ 5) :
    keptMantissa m e = m :=
  if_pos ⟨h1, h2⟩

theorem keptMantissa_regionB {m : Nat} {e : Int} (he : e < -6 ∨ 5 < e) :
    keptMantissa m e = 10 * (m / 10) :=
  if_neg (by omega)

theorem keptMantissa_le (m : Nat) (e : Int) : keptMantissa m e ≤ m := by
  rw [keptMantissa]
  split <;> omega

theorem lt_keptMantissa_add_ten (m : Nat) (e : Int) : m + 1 ≤ keptMantissa m e + 10 := by
  rw [keptMantissa]
  split <;> omega

/-- In the encoder's domain of rule R104 only the eighth digit of Region B is lost. -/
theorem decodeWord_encodeTriple {s : SignBit} {m : Nat} {e : Int} (hm : m ≤ 99999999)
    (hlow : -48 ≤ e) (hhigh : e ≤ 47) (hA : -6 ≤ e → e ≤ 5 → 10 ^ 7 ≤ m) :
    decodeWord (encodeTriple s m e) = ⟨s, keptMantissa m e, e⟩ := by
  obtain hB | ⟨h1, h2⟩ | hB : e ≤ -7 ∨ (-6 ≤ e ∧ e ≤ 5) ∨ 6 ≤ e := by omega
  · have hE : (16 + e / 3).toNat < 64 := by omega
    have hF : (e % 3).toNat * 10 ^ 7 + m / 10 < 2 ^ 25 := by omega
    rw [encodeTriple_regionBLow hm hlow hB, keptMantissa_regionB (by omega),
      decodeWord_regionBLow (by rw [expField_mkWord s hE hF]; omega), signOf_mkWord s hE hF,
      expField_mkWord s hE hF, mantField_mkWord s hE hF, Triple.mk.injEq]
    exact ⟨rfl, by omega, by omega⟩
  · have h0 := hA h1 h2
    have hE : 14 + 3 * (e + 6).toNat + (m / 10 ^ 7 - 1) / 3 < 64 := by omega
    have hF : m - (1 + 3 * ((m / 10 ^ 7 - 1) / 3)) * 10 ^ 7 < 2 ^ 25 := by omega
    rw [encodeTriple_regionA h0 hm h1 h2, keptMantissa_regionA h1 h2,
      decodeWord_regionA (by rw [expField_mkWord s hE hF]; omega)
        (by rw [expField_mkWord s hE hF]; omega), signOf_mkWord s hE hF,
      expField_mkWord s hE hF, mantField_mkWord s hE hF, Triple.mk.injEq]
    exact ⟨rfl, by omega, by omega⟩
  · have hE : (48 + e / 3).toNat < 64 := by omega
    have hF : (e % 3).toNat * 10 ^ 7 + m / 10 < 2 ^ 25 := by omega
    rw [encodeTriple_regionBHigh hm hB hhigh, keptMantissa_regionB (by omega),
      decodeWord_regionBHigh (by rw [expField_mkWord s hE hF]; omega), signOf_mkWord s hE hF,
      expField_mkWord s hE hF, mantField_mkWord s hE hF, Triple.mk.injEq]
    exact ⟨rfl, by omega, by omega⟩

/-- Settles O18: within the region's precision the word keeps the whole mantissa. -/
theorem encmThenDecReturnsTheDigits : Obligations.EncmThenDecReturnsTheDigits := by
  intro sign mant8 exp s hm hlow hhigh hA hB
  have hkept : keptMantissa mant8.toNat exp.toInt = mant8.toNat := by
    rw [keptMantissa]
    split <;> omega
  have hdec : decodeWord (encmWord sign mant8 exp) = ⟨sign, mant8.toNat, exp.toInt⟩ := by
    rw [encmWord, signed, decodeWord_encodeTriple hm hlow hhigh (fun h1 h2 => hA ⟨h1, h2⟩), hkept]
  have hsign : signOf (encmWord sign mant8 exp) = sign := by rw [← decodeWord_s, hdec]
  refine ⟨encmWord sign mant8 exp, ?_, ?_⟩
  · rw [exec_encm, drive_of_command (by decide)]
  · rw [exec_dec, hsign, hdec, BitVec.ofNat_toNat, BitVec.setWidth_eq, toExpBits,
      BitVec.ofInt_toInt]

/-! ### Broken caller obligations (rules R104, R105, R122 and R233) -/

theorem inEncoderDomain_iff (m : Nat) (e : Int) :
    inEncoderDomain m e = true ↔
      m ≤ 99999999 ∧ -48 ≤ e ∧ e ≤ 47 ∧ (-6 ≤ e ∧ e ≤ 5 → 10000000 ≤ m) := by
  simp only [inEncoderDomain, Bool.and_eq_true, Bool.or_eq_true, Bool.not_eq_true',
    Bool.and_eq_false_iff, decide_eq_true_eq, decide_eq_false_iff_not]
  omega

/-- Rule R104: outside the domain the encoder answers the canonical NaN. -/
theorem encodeTriple_of_not_inEncoderDomain {s : SignBit} {m : Nat} {e : Int}
    (h : inEncoderDomain m e = false) : encodeTriple s m e = qnanWord s := by
  rw [← Bool.not_eq_true, inEncoderDomain_iff] at h
  by_cases hout : 99999999 < m ∨ e < -48 ∨ 47 < e
  · exact encodeTriple_outside hout
  · exact encodeTriple_regionA_zero (by omega) (by omega) (by omega)

theorem shifterUnit_left {x : ShiftData} {amt : AmtBits} (hpos : 0 ≤ amt.toInt) :
    shifterUnit x amt = BitVec.ofNat 32 (x.toNat * 10 ^ amt.toInt.toNat) := by
  apply BitVec.eq_of_toNat_eq
  rw [shifterUnit_toNat, shiftMagnitude_left _ hpos, BitVec.toNat_ofNat]

/-- Settles O20: only a left shift can break the shifter's obligation, and it reduces the product;
the encoder's obligation is its domain, and ENCD's also the ranges of its digits. -/
theorem brokenObligationsGiveDefinedValues : Obligations.BrokenObligationsGiveDefinedValues := by
  intro s
  refine ⟨fun x amt h => ?_, fun sign mant8 exp h => ?_, fun sign lead trail exp h => ?_⟩
  · obtain ⟨hneg, -⟩ := Bool.or_eq_false_iff.1 h
    rw [exec_shift, shifterUnit_left (not_lt.1 (of_decide_eq_false hneg))]
  · rw [exec_encm, drive_of_command (by decide), encmWord, signed,
      encodeTriple_of_not_inEncoderDomain h, qnanWord_eq_qnan]
  · rw [exec_encd, drive_of_command (by decide), ← qnanWord_eq_qnan, encdWord]
    split
    next => rfl
    next hdigits =>
      rw [not_or, not_lt, not_lt] at hdigits
      simp only [Instr.honoursObligations, decide_eq_true hdigits.1, decide_eq_true hdigits.2,
        Bool.true_and] at h
      rw [signed, encodeTriple_of_not_inEncoderDomain h]

/-! ### What finalisation loses (rule R131) -/

/-- A pair that the loops only grow, and that is past growing, is not changed. -/
theorem grown_exponent_eq_zero {m k : Nat} {e : Int} (hdone : 10000000 ≤ m ∨ e ≤ -48)
    (h : runLoops m e = (m * 10 ^ k, e - k)) : k = 0 := by
  obtain ⟨hm, he, -⟩ := normalised_runLoops m e
  rw [h] at hm he
  dsimp only at hm he
  obtain hdigits | hfloor := hdone
  · by_contra hk
    have hpow : 10 ^ 1 ≤ 10 ^ k := Nat.pow_le_pow_right (by decide) (Nat.one_le_iff_ne_zero.2 hk)
    have hmul : 10000000 * 10 ^ 1 ≤ m * 10 ^ k := Nat.mul_le_mul hdigits hpow
    omega
  · omega

/-- The loops either grow the magnitude by whole places or cut whole places off, because the passes
that cut leave nothing to grow. -/
theorem runLoops_cases (m : Nat) (e : Int) :
    (∃ k : Nat, runLoops m e = (m * 10 ^ k, e - k)) ∨
      ∃ k : Nat, runLoops m e = (m / 10 ^ k, e + k) := by
  have cut (m : Nat) (e : Int) (hdone : 10000000 ≤ m / 10 ∨ e + 1 ≤ -48)
      (ih : (∃ k : Nat, runLoops (m / 10) (e + 1) = (m / 10 * 10 ^ k, e + 1 - k)) ∨
        ∃ k : Nat, runLoops (m / 10) (e + 1) = (m / 10 / 10 ^ k, e + 1 + k)) :
      ∃ k : Nat, runLoops (m / 10) (e + 1) = (m / 10 ^ k, e + k) := by
    obtain ⟨k, hk⟩ | ⟨k, hk⟩ := ih
    · obtain rfl := grown_exponent_eq_zero hdone hk
      exact ⟨1, by simpa using hk⟩
    · exact ⟨k + 1, by rw [hk, Nat.pow_succ', Nat.div_div_eq_div_mul]; congr 1; omega⟩
  induction m, e using finalisation_induction with
  | done m e h => exact .inl ⟨0, by simp [runLoops_of_normalised h]⟩
  | grow m e hm he ih =>
    rw [runLoops_grow hm he]
    obtain ⟨k, hk⟩ | ⟨_ | k, hk⟩ := ih
    · exact .inl ⟨k + 1, by rw [hk, Nat.pow_succ', Nat.mul_assoc]; congr 1; omega⟩
    · exact .inl ⟨1, by simpa using hk⟩
    · refine .inr ⟨k, ?_⟩
      rw [hk, Nat.pow_succ, Nat.mul_div_mul_right _ _ (by decide)]
      congr 1
      omega
  | shrink m e hm ih =>
    rw [runLoops_shrink e hm]
    exact .inr (cut m e (.inl (by omega)) ih)
  | denorm m e hm he ih =>
    rw [runLoops_denorm hm he]
    exact .inr (cut m e (.inr (by omega)) ih)

/-- The pair that the loops leave stands for the exact value truncated at its exponent. -/
theorem runLoops_truncates (m : Nat) (e : Int) :
    ((runLoops m e).1 : ℚ) * 10 ^ ((runLoops m e).2 - 7) ≤ m * 10 ^ (e - 7) ∧
      (m : ℚ) * 10 ^ (e - 7) < ((runLoops m e).1 + 1) * 10 ^ ((runLoops m e).2 - 7) := by
  obtain ⟨k, hk⟩ | ⟨k, hk⟩ := runLoops_cases m e
  · have hsame : ((m * 10 ^ k : Nat) : ℚ) * 10 ^ (e - k - 7) = m * 10 ^ (e - 7) := by
      rw [sub_right_comm, zpow_sub₀ (by norm_num) _ (k : Int), zpow_natCast]
      push_cast
      field_simp
    rw [hk, add_mul, one_mul, hsame]
    exact ⟨le_rfl, lt_add_of_pos_right _ (by positivity)⟩
  · have hpow : (10 : ℚ) ^ (e + k - 7) = (10 ^ k : Nat) * 10 ^ (e - 7) := by
      rw [add_sub_right_comm, zpow_add₀ (by norm_num), zpow_natCast, mul_comm, Nat.cast_pow,
        Nat.cast_ofNat]
    have hle : m / 10 ^ k * 10 ^ k ≤ m := Nat.div_mul_le_self _ _
    have hlt : m < (m / 10 ^ k + 1) * 10 ^ k :=
      (Nat.div_lt_iff_lt_mul (by positivity)).1 (Nat.lt_succ_self _)
    rw [hk, hpow, ← mul_assoc, ← mul_assoc]
    constructor
    · gcongr
      exact_mod_cast hle
    · gcongr
      exact_mod_cast hlt

/-! ### The values of results (rules R13 and R131) -/

theorem abs_signFactor (s : SignBit) : |signFactor s| = 1 := by
  rw [signFactor]
  split <;> norm_num

theorem abs_wordValue (w : Word) :
    |wordValue w| = (decodeWord w).m * 10 ^ ((decodeWord w).e - 7) := by
  have hpos : (0 : ℚ) ≤ 10 ^ ((decodeWord w).e - 7) := by positivity
  rw [wordValue, Triple.value, abs_mul, abs_mul, abs_signFactor, one_mul, Nat.abs_cast,
    abs_of_nonneg hpos]

/-- A result that is not an Infinity is the encoded pair that the loops leave. -/
theorem decodeWord_finalize {s : SignBit} {m : Nat} {e : Int} (h : finalize s m e ≠ infWord s) :
    decodeWord (finalize s m e) =
      ⟨s, keptMantissa (runLoops m e).1 (runLoops m e).2, (runLoops m e).2⟩ := by
  obtain ⟨hm, he, hdigits⟩ := normalised_runLoops m e
  obtain ⟨-, hinf⟩ | ⟨hfits, henc⟩ := finalize_cases s m e
  · exact absurd hinf h
  · rw [← Bool.not_eq_true, overflows_eq_true_iff] at hfits
    rw [henc, decodeWord_encodeTriple hm he (by omega) (by omega)]

theorem abs_wordValue_finalize_le {s : SignBit} {m : Nat} {e : Int}
    (h : finalize s m e ≠ infWord s) :
    |wordValue (finalize s m e)| ≤ (m : ℚ) * 10 ^ (e - 7) := by
  obtain ⟨hle, -⟩ := runLoops_truncates m e
  rw [abs_wordValue, decodeWord_finalize h]
  refine le_trans ?_ hle
  gcongr
  exact keptMantissa_le _ _

/-- Settles O25: the loops cut less than one unit of the last place, and the word at most nine
more. -/
theorem finalizeTruncatesTowardZero : Obligations.FinalizeTruncatesTowardZero := by
  intro s m e h
  have hdec := decodeWord_finalize h
  refine ⟨by rw [← decodeWord_s, hdec], abs_wordValue_finalize_le h, ?_⟩
  obtain ⟨-, hlt⟩ := runLoops_truncates m e
  rw [abs_wordValue, hdec, sub_lt_iff_lt_add]
  dsimp only
  have hkept : ((runLoops m e).1 + 1 : ℚ) ≤
      keptMantissa (runLoops m e).1 (runLoops m e).2 + 10 :=
    mod_cast lt_keptMantissa_add_ten _ _
  calc (m : ℚ) * 10 ^ (e - 7)
      < ((runLoops m e).1 + 1) * 10 ^ ((runLoops m e).2 - 7) := hlt
    _ ≤ (keptMantissa (runLoops m e).1 (runLoops m e).2 + 10) *
          10 ^ ((runLoops m e).2 - 7) := by gcongr
    _ = 10 ^ ((runLoops m e).2 - 6) + keptMantissa (runLoops m e).1 (runLoops m e).2 *
          10 ^ ((runLoops m e).2 - 7) := by
        rw [show (runLoops m e).2 - 6 = (runLoops m e).2 - 7 + 1 by omega,
          zpow_add_one₀ (by norm_num)]
        ring

/-! ### The order of operands (rules R132 and R150) -/

/-- Settles O31: the exponent, the sum and its sign are each symmetric. -/
theorem addIsCommutative : Obligations.AddIsCommutative := by
  intro a b s
  refine ⟨_, exec_add_eq a b s, ?_⟩
  rw [exec_add_eq, addWord_eq_finalize, addWord_eq_finalize, addExponent_comm, alignedSum_comm,
    sumSign_comm]

theorem exec_mul_eq (a b : Word) (s : State) :
    exec (.mul a b) s = .next { s with out := .value (mulWord a b), illegal := false } := by
  rw [exec_mul, drive_of_command (by decide)]

theorem exec_div_eq (a b : Word) (s : State) :
    exec (.div a b) s = .next { s with out := .value (divWord a b), illegal := false } := by
  rw [exec_div, drive_of_command (by decide)]

theorem mulWord_comm (a b : Word) : mulWord a b = mulWord b a := by
  simp only [mulWord, BitVec.xor_comm (decodeWord a).s, Int.add_comm (decodeWord a).e,
    Nat.mul_comm (decodeWord a).m]

/-- Settles O38: `mulWord_comm` on the result port. -/
theorem mulIsCommutative : Obligations.MulIsCommutative := by
  intro a b s
  exact ⟨_, exec_mul_eq a b s, by rw [exec_mul_eq, mulWord_comm]⟩

/-! ### Truncated products and quotients (rules R150 and R152) -/

theorem signOf_xor_infWord (a b : Word) :
    infWord ((decodeWord a).s ^^^ (decodeWord b).s) = inf (xorSign a b) := by
  rw [infWord_eq_inf, decodeWord_s, decodeWord_s, signOf_xor_toNat]

theorem wordValue_zeroWord (s : SignBit) : wordValue (zeroWord s) = 0 := by
  have hm : (decodeWord (zeroWord s)).m = 0 := by
    revert s
    decide
  rw [wordValue, Triple.value, hm, Nat.cast_zero, mul_zero, zero_mul]

/-- Settles O35: below the range the result is zero, and within it the rescaled product is cut
before finalisation cuts it further. -/
theorem mulNeverExceedsTheExactProduct : Obligations.MulNeverExceedsTheExactProduct := by
  intro a b s
  refine ⟨_, exec_mul_eq a b s, or_iff_not_imp_left.2 fun hfinite => ?_⟩
  rw [← signOf_xor_infWord] at hfinite
  obtain ⟨-, h⟩ | ⟨-, h⟩ | ⟨-, -, h⟩ := mulWord_cases a b
  · rw [h, wordValue_zeroWord, abs_zero]
    positivity
  · exact absurd h hfinite
  · rw [h] at hfinite ⊢
    have hcut : (((decodeWord a).m * (decodeWord b).m / 10 ^ 7 : Nat) : ℚ) ≤
        (decodeWord a).m * (decodeWord b).m * 10 ^ (-7 : Int) :=
      Nat.cast_div_le.trans_eq (by push_cast; rw [zpow_neg, div_eq_mul_inv]; norm_cast)
    calc _ ≤ _ := abs_wordValue_finalize_le hfinite
      _ ≤ (decodeWord a).m * (decodeWord b).m * 10 ^ (-7 : Int) *
            10 ^ ((decodeWord a).e + (decodeWord b).e - 7) := by gcongr
      _ = |wordValue a| * |wordValue b| := by
        rw [abs_wordValue, abs_wordValue, mul_assoc, ← zpow_add₀ (by norm_num), mul_mul_mul_comm,
          ← zpow_add₀ (by norm_num)]
        congr 2
        omega

/-- Settles O36: the quotient of the mantissas is cut before finalisation cuts it further. -/
theorem divNeverExceedsTheExactQuotient : Obligations.DivNeverExceedsTheExactQuotient := by
  intro a b s
  refine ⟨_, exec_div_eq a b s, or_iff_not_imp_left.2 fun hfinite => ?_⟩
  rw [← signOf_xor_infWord] at hfinite
  obtain ⟨-, h⟩ | ⟨-, h⟩ := divWord_cases a b
  · exact absurd h hfinite
  · rw [h] at hfinite ⊢
    have hcut : (((decodeWord a).m * 10 ^ 7 / (decodeWord b).m : Nat) : ℚ) * (decodeWord b).m ≤
        (decodeWord a).m * 10 ^ (7 : Int) :=
      mod_cast Nat.div_mul_le_self ((decodeWord a).m * 10 ^ 7) (decodeWord b).m
    calc _ ≤ ((decodeWord a).m * 10 ^ 7 / (decodeWord b).m : Nat) *
            10 ^ ((decodeWord a).e - (decodeWord b).e - 7) * |wordValue b| := by
          gcongr
          exact abs_wordValue_finalize_le hfinite
      _ = ((decodeWord a).m * 10 ^ 7 / (decodeWord b).m : Nat) * (decodeWord b).m *
            10 ^ ((decodeWord a).e - 14) := by
          rw [abs_wordValue, mul_mul_mul_comm, ← zpow_add₀ (by norm_num)]
          congr 2
          omega
      _ ≤ (decodeWord a).m * 10 ^ (7 : Int) * 10 ^ ((decodeWord a).e - 14) := by gcongr
      _ = |wordValue a| := by
          rw [abs_wordValue, mul_assoc, ← zpow_add₀ (by norm_num)]
          congr 2
          omega

/-! ### Multiplying by ONE (rules R70 and R156) -/

theorem decodeWord_oneWord : decodeWord oneWord = ⟨0#1, 10 ^ 7, 0⟩ := by decide

/-- A valid word's triple passes finalisation unchanged: it is normal or stands at the floor, and
check 2 keeps it below the ceiling. -/
theorem finalize_decoded {w : Word} (hv : isValidWord w = true) :
    finalize (decodeWord w).s (decodeWord w).m (decodeWord w).e = w := by
  obtain ⟨hranges, -, hceil⟩ := inValidRanges_of_isValidWord hv
  rw [fieldF_eq_mantField] at hranges
  have hnorm : Normalised (decodeWord w).m (decodeWord w).e := ⟨by omega, by omega, by omega⟩
  rw [finalize_of_normalised _ hnorm, if_neg (by omega)]
  exact reencoded_of_mantField_lt (mantField_lt_of_isValidWord hv)

theorem mulWord_oneWord {w : Word} (hv : isValidWord w = true) : mulWord w oneWord = w := by
  obtain ⟨hranges, -, -⟩ := inValidRanges_of_isValidWord hv
  have hone : (decodeWord oneWord).e = 0 := by rw [decodeWord_oneWord]
  obtain ⟨hlow, -⟩ | ⟨hhigh, -⟩ | ⟨-, -, h⟩ := mulWord_cases w oneWord
  · omega
  · omega
  · rw [h, decodeWord_oneWord, BitVec.xor_zero, Nat.mul_div_cancel _ (by decide), Int.add_zero,
      finalize_decoded hv]

/-- Settles O37: ONE rescales by nothing and adds nothing to the exponent; the other order is the
same product. -/
theorem mulByOneIsIdentity : Obligations.MulByOneIsIdentity := by
  intro x s hv
  rw [exec_mul_eq, exec_mul_eq, mulWord_comm oneWord, mulWord_oneWord hv]
  exact ⟨rfl, rfl⟩

/-! ### Special operand words (rules R136 and R155) -/

/-- Settles O32: the words are constants, and the results are evaluated. -/
theorem specialWordsComputeAsTriples : Obligations.SpecialWordsComputeAsTriples := by
  unfold Obligations.SpecialWordsComputeAsTriples
  decide

end Sys2Proof.Proofs

/-! PROOFS. The renderer: the class of a word by its fields alone, and the text as a name for a
valid word. -/

namespace Sys2Proof.Proofs

open Sys2Proof Sys2Proof.Machine Sys2Proof.Safety Sys2Proof.Spec

/-! ### The checks of rule R190 as conditions on the fields -/

/-- Check 2's ceiling lies in the top exponent field alone. -/
theorem over_ceiling_iff (w : Word) :
    (decodeWord w).e = 47 ∧ 50000000 < (decodeWord w).m ↔
      expField w = 63 ∧ 25000000 < mantField w ∧ mantField w < 30000000 := by
  have hE := expField_lt w
  have hF := mantField_lt w
  obtain ⟨hlow, hm, he⟩ | ⟨h14, h49, hm, he⟩ | ⟨hhigh, hm, he⟩ := decodeWord_cases w
  · omega
  · omega
  · omega

/-- Check 4's exception is the subnormals. -/
theorem exponent_eq_floor_iff (w : Word) :
    (decodeWord w).e = -48 ↔ expField w = 0 ∧ mantField w < 10 ^ 7 := by
  obtain ⟨hlow, -, he⟩ | ⟨h14, h49, -, he⟩ | ⟨hhigh, -, he⟩ := decodeWord_cases w
  · omega
  · omega
  · omega

theorem isValidWord_iff_classify (w : Word) : isValidWord w = true ↔ classify w = .valid :=
  decide_eq_true_iff

/-- The words of the last clause of rule R192, with the row that its table lacks (log entry 9). -/
theorem isValidWord_iff_fields (w : Word) :
    isValidWord w = true ↔
      ¬ (expField w = 63 ∧ mantField w = 25165824) ∧
      ¬ (expField w = 63 ∧ 25000000 < mantField w ∧ mantField w < 30000000) ∧
      ¬ 30000000 ≤ mantField w ∧
      ¬ ((expField w ≤ 13 ∨ 50 ≤ expField w) ∧ ¬ (expField w = 0 ∧ mantField w < 10 ^ 7) ∧
        mantField w % 10 ^ 7 < 1000000) := by
  rw [isValidWord_iff, over_ceiling_iff, ne_eq, exponent_eq_floor_iff]

/-- Only check 1 answers an Infinity. -/
theorem infinity_fields_of_classify {w : Word} (h : classify w = .infinity) :
    expField w = 63 ∧ mantField w = 25165824 := by
  rw [← magnitude_eq_infinity_iff]
  simp only [classify] at h
  split_ifs at h with hinf
  exact hinf

/-- A word that is neither an Infinity nor valid is a NaN. -/
theorem classify_eq_nan {w : Word} (hinf : ¬ (expField w = 63 ∧ mantField w = 25165824))
    (hvalid : ¬ isValidWord w = true) : classify w = .nan := by
  cases h : classify w with
  | infinity => exact absurd (infinity_fields_of_classify h) hinf
  | nan => rfl
  | valid => exact absurd ((isValidWord_iff_classify w).2 h) hvalid

theorem rendererUnit_of_isValidWord {w : Word} (hw : isValidWord w = true) :
    rendererUnit w = genericBytes (fieldS w) (decodeWord w).m (decodeWord w).e :=
  rendererUnit_of_valid ((isValidWord_iff_classify w).1 hw)

/-- Settles O52: the Infinity fields are check 1's, the NaN rows meet one of the later checks, and
the rows left meet none. -/
theorem fmtClassifiesWordsByTheirFields : Obligations.FmtClassifiesWordsByTheirFields := by
  intro w s
  refine ⟨_, exec_fmt w s, ?_⟩
  rw [fieldE_eq_expField, fieldF_eq_mantField]
  refine ⟨fun ⟨hE, hF⟩ => rendererUnit_of_infinity (classify_of_infinity_fields hE hF),
    fun h => rendererUnit_of_nan (classify_eq_nan ?_ ?_), fun h => ?_⟩
  · omega
  · rw [isValidWord_iff_fields]
    omega
  · have hvalid : isValidWord w = true := by
      rw [isValidWord_iff_fields]
      omega
    exact ⟨rendererUnit_of_isValidWord hvalid, hvalid⟩

/-! ### Reading a generic text back (rule R190) -/

theorem digitCode_inj {m n k : Nat} (h : digitCode m k = digitCode n k) :
    m / 10 ^ k % 10 = n / 10 ^ k % 10 := by
  have hnat := congrArg BitVec.toNat h
  rw [digitCode, digitCode, BitVec.toNat_ofNat, BitVec.toNat_ofNat] at hnat
  omega

theorem signCode_inj {p q : Prop} [Decidable p] [Decidable q] (h : signCode p = signCode q) :
    p ↔ q := by
  rw [signCode, signCode] at h
  split_ifs at h with hp hq hq
  · exact iff_of_true hp hq
  · exact absurd h (by decide)
  · exact absurd h (by decide)
  · exact iff_of_false hp hq

theorem mod_pow_eq_of_digits_eq {m n j : Nat} (h : ∀ k < j, m / 10 ^ k % 10 = n / 10 ^ k % 10) :
    m % 10 ^ j = n % 10 ^ j := by
  induction j with
  | zero => rw [pow_zero, Nat.mod_one, Nat.mod_one]
  | succ j ih =>
    rw [Nat.mod_pow_succ, Nat.mod_pow_succ, ih fun k hk => h k (by omega), h j (by omega)]

theorem eq_of_eight_digits {m n : Nat} (hm : m ≤ 99999999) (hn : n ≤ 99999999)
    (h : ∀ k < 8, m / 10 ^ k % 10 = n / 10 ^ k % 10) : m = n := by
  have hmod := mod_pow_eq_of_digits_eq h
  rwa [Nat.mod_eq_of_lt (by omega), Nat.mod_eq_of_lt (by omega)] at hmod

/-- Bytes 1 and 3 to 9 carry the digits of the mantissa. -/
theorem mantissa_eq_of_genericBytes_eq {s s' m m' : Nat} {e e' : Int} (hm : m ≤ 99999999)
    (hm' : m' ≤ 99999999) (h : genericBytes s m e = genericBytes s' m' e') : m = m' := by
  refine eq_of_eight_digits hm hm' fun k hk => digitCode_inj ?_
  interval_cases k
  · exact congrArg (·[9]) h
  · exact congrArg (·[8]) h
  · exact congrArg (·[7]) h
  · exact congrArg (·[6]) h
  · exact congrArg (·[5]) h
  · exact congrArg (·[4]) h
  · exact congrArg (·[3]) h
  · exact congrArg (·[1]) h

/-- Bytes 11 to 13 carry the exponent's sign and digits. -/
theorem exponent_eq_of_genericBytes_eq {s s' m m' : Nat} {e e' : Int} (he : e.natAbs ≤ 99)
    (he' : e'.natAbs ≤ 99) (h : genericBytes s m e = genericBytes s' m' e') : e = e' := by
  have hsign : e < 0 ↔ e' < 0 := signCode_inj (congrArg (·[11]) h)
  have htens := digitCode_inj (k := 1) (m := e.natAbs) (n := e'.natAbs) (congrArg (·[12]) h)
  have hunits := digitCode_inj (k := 0) (m := e.natAbs) (n := e'.natAbs) (congrArg (·[13]) h)
  omega

theorem sign_eq_of_genericBytes_eq {s s' m m' : Nat} {e e' : Int} (hs : s ≤ 1) (hs' : s' ≤ 1)
    (h : genericBytes s m e = genericBytes s' m' e') : s = s' := by
  have hsign : s = 1 ↔ s' = 1 := signCode_inj (congrArg (·[0]) h)
  omega

theorem fieldS_le_one (w : Word) : fieldS w ≤ 1 := by
  have hw := w.isLt
  rw [fieldS]
  omega

/-- DEC loses nothing of a valid word, because ENCM brings it back. -/
theorem eq_of_decodeWord_eq {v w : Word} (hv : isValidWord v = true) (hw : isValidWord w = true)
    (hs : (decodeWord v).s = (decodeWord w).s) (hm : (decodeWord v).m = (decodeWord w).m)
    (he : (decodeWord v).e = (decodeWord w).e) : v = w := by
  rw [← reencoded_of_mantField_lt (mantField_lt_of_isValidWord hv),
    ← reencoded_of_mantField_lt (mantField_lt_of_isValidWord hw), reencoded, reencoded, hs, hm, he]

theorem digits_of_isValidWord {w : Word} (hw : isValidWord w = true) :
    (decodeWord w).m ≤ 99999999 ∧ (decodeWord w).e.natAbs ≤ 99 := by
  obtain ⟨hranges, -, -⟩ := inValidRanges_of_isValidWord hw
  omega

/-- Settles O53: equal texts have equal triples, and equal triples come from one valid word. -/
theorem fmtTextDeterminesTheValidWord : Obligations.FmtTextDeterminesTheValidWord := by
  intro v w s t hv hw hfv hfw
  obtain ⟨hmv, hev⟩ := digits_of_isValidWord hv
  obtain ⟨hmw, hew⟩ := digits_of_isValidWord hw
  have hexec := hfv.trans hfw.symm
  rw [exec_fmt, exec_fmt, Host.Outcome.next.injEq, State.mk.injEq, Results.text.injEq,
    rendererUnit_of_isValidWord hv, rendererUnit_of_isValidWord hw] at hexec
  obtain ⟨-, htext, -⟩ := hexec
  have hs := sign_eq_of_genericBytes_eq (fieldS_le_one v) (fieldS_le_one w) htext
  rw [fieldS_eq_signOf_toNat, fieldS_eq_signOf_toNat, BitVec.toNat_inj, ← decodeWord_s,
    ← decodeWord_s] at hs
  exact eq_of_decodeWord_eq hv hw hs (mantissa_eq_of_genericBytes_eq hmv hmw htext)
    (exponent_eq_of_genericBytes_eq hev hew htext)

end Sys2Proof.Proofs

/-! PROOFS. Rounding to binary64: the fields and the value of a rounded pattern, nearness to every
finite value, and the obligations on the product and on D2F. -/

namespace Sys2Proof.Proofs

open Sys2Proof Sys2Proof.Machine Sys2Proof.Spec

/-! ### Patterns of a sign and 63 bits (rule R170) -/

theorem sign_append_toNat (s : SignBit) {b : Nat} (hb : b < 2 ^ 63) :
    (s ++ BitVec.ofNat 63 b).toNat = s.toNat * 2 ^ 63 + b := by
  rw [BitVec.toNat_append, BitVec.toNat_ofNat, Nat.mod_eq_of_lt hb,
    ← Nat.shiftLeft_add_eq_or_of_lt hb, Nat.shiftLeft_eq]

@[simp] theorem f64Sign_append (s : SignBit) (v : BitVec 63) : f64Sign (s ++ v) = s :=
  BitVec.extractLsb'_append_eq_left

theorem f64Exp_append (s : SignBit) {b : Nat} (hb : b < 2 ^ 63) :
    f64Exp (s ++ BitVec.ofNat 63 b) = b / 2 ^ 52 := by
  have hs := s.isLt
  rw [f64Exp_eq, sign_append_toNat s hb]
  omega

theorem f64Frac_append (s : SignBit) {b : Nat} (hb : b < 2 ^ 63) :
    f64Frac (s ++ BitVec.ofNat 63 b) = b % 2 ^ 52 := by
  rw [f64Frac_eq, sign_append_toNat s hb]
  omega

/-- A significand of at most `2^53` above `k` exponent places: where it fills the 53 bits, the sum
carries into the exponent, and the value is the same. -/
theorem f64Value_append (s : SignBit) {k sig : Nat} (hk : k = 0 ∨ 2 ^ 52 ≤ sig)
    (hsig : sig ≤ 2 ^ 53) (hb : k * 2 ^ 52 + sig < 2047 * 2 ^ 52) :
    f64Value (s ++ BitVec.ofNat 63 (k * 2 ^ 52 + sig)) =
      signFactor s * sig * 2 ^ ((k : Int) - 1074) := by
  have hexp := f64Exp_append s (b := k * 2 ^ 52 + sig) (by omega)
  have hfrac := f64Frac_append s (b := k * 2 ^ 52 + sig) (by omega)
  rw [f64Value, f64Sign_append, f64Significand, f64Scale]
  obtain hlt | hlt | rfl : sig < 2 ^ 52 ∨ (2 ^ 52 ≤ sig ∧ sig < 2 ^ 53) ∨ sig = 2 ^ 53 := by omega
  · rw [if_pos (by omega), if_pos (by omega), hfrac]
    congr 2
    · congr 1
      omega
    · omega
  · rw [if_neg (by omega), if_neg (by omega), hexp, hfrac]
    congr 2
    · congr 1
      omega
    · omega
  · have hcarry : (((k * 2 ^ 52 + 2 ^ 53) / 2 ^ 52 : Nat) : Int) - 1075 = (k : Int) - 1074 + 1 := by
      omega
    have hzero : (k * 2 ^ 52 + 2 ^ 53) % 2 ^ 52 = 0 := by omega
    rw [if_neg (by omega), if_neg (by omega), hexp, hfrac, hcarry, hzero,
      zpow_add_one₀ two_ne_zero]
    push_cast
    ring

/-! ### Rounding to an integer -/

theorem roundHalfEven_cases (n k : Nat) :
    let q := n / 2 ^ k
    let r := n % 2 ^ k
    ((2 ^ k < 2 * r ∨ (2 * r = 2 ^ k ∧ q % 2 = 1)) ∧ roundHalfEven n k = q + 1) ∨
    (¬ (2 ^ k < 2 * r ∨ (2 * r = 2 ^ k ∧ q % 2 = 1)) ∧ roundHalfEven n k = q) := by
  simp only [roundHalfEven]
  split
  · exact .inl ⟨‹_›, rfl⟩
  · exact .inr ⟨‹_›, rfl⟩

theorem roundHalfEven_zero_right (n : Nat) : roundHalfEven n 0 = n := by
  obtain ⟨h, -⟩ | ⟨-, h⟩ := roundHalfEven_cases n 0
  · omega
  · rw [h, pow_zero, Nat.div_one]

/-- What makes the integer `r` the rounding of `x`: it lies within a half, and a tie goes to
even. -/
def RoundsTo (x : ℚ) (r : Nat) : Prop :=
  |(r : ℚ) - x| ≤ 1 / 2 ∧ (|(r : ℚ) - x| = 1 / 2 → r % 2 = 0)

theorem roundsTo_roundHalfEven (n k : Nat) : RoundsTo (n / 2 ^ k) (roundHalfEven n k) := by
  have hpos : (0 : ℚ) < 2 ^ k := by positivity
  obtain ⟨t, ht⟩ : ∃ t : ℚ, t = (n % 2 ^ k : Nat) / 2 ^ k := ⟨_, rfl⟩
  have hsplit : (n : ℚ) / 2 ^ k = (n / 2 ^ k : Nat) + t := by
    rw [ht, div_eq_iff hpos.ne', add_mul, div_mul_cancel₀ _ hpos.ne']
    exact_mod_cast (Nat.div_add_mod' n (2 ^ k)).symm
  have hunit : 0 ≤ t ∧ t < 1 := by
    rw [ht, div_lt_one hpos]
    exact ⟨by positivity, mod_cast Nat.mod_lt n (by positivity)⟩
  have hbelow : t < 1 / 2 ↔ 2 * (n % 2 ^ k) < 2 ^ k := by
    rw [ht, div_lt_div_iff₀ hpos two_pos, one_mul, mul_comm]
    exact_mod_cast Iff.rfl
  have habove : 1 / 2 < t ↔ 2 ^ k < 2 * (n % 2 ^ k) := by
    rw [ht, div_lt_div_iff₀ two_pos hpos, one_mul, mul_comm]
    exact_mod_cast Iff.rfl
  obtain ⟨hup, h⟩ | ⟨hdown, h⟩ := roundHalfEven_cases n k
  · have hdist : |((n / 2 ^ k + 1 : Nat) : ℚ) - ((n / 2 ^ k : Nat) + t)| = 1 - t := by
      rw [Nat.cast_succ, add_sub_add_left_eq_sub, abs_of_nonneg (by linarith)]
    have hge : ¬ t < 1 / 2 := by rw [hbelow]; omega
    rw [RoundsTo, hsplit, h, hdist]
    refine ⟨by linarith, fun htie => ?_⟩
    have hle : ¬ 1 / 2 < t := by linarith
    rw [habove] at hle
    omega
  · have hdist : |((n / 2 ^ k : Nat) : ℚ) - ((n / 2 ^ k : Nat) + t)| = t := by
      rw [sub_add_cancel_left, abs_neg, abs_of_nonneg hunit.1]
    have hle : ¬ 1 / 2 < t := by rw [habove]; omega
    rw [RoundsTo, hsplit, h, hdist]
    refine ⟨by linarith, fun htie => ?_⟩
    have hge : ¬ t < 1 / 2 := by linarith
    rw [hbelow] at hge
    omega

/-- No integer lies nearer to `x` than its rounding. -/
theorem RoundsTo.nearest {x : ℚ} {r : Nat} (h : RoundsTo x r) (j : ℤ) :
    |(r : ℚ) - x| < |(j : ℚ) - x| ∨ j = r ∨ (|(r : ℚ) - x| = |(j : ℚ) - x| ∧ r % 2 = 0) := by
  obtain ⟨hhalf, htie⟩ := h
  obtain rfl | hne := eq_or_ne j r
  · exact .inr (.inl rfl)
  · have hstep : (1 : ℚ) ≤ |(j : ℚ) - r| := mod_cast Int.one_le_abs (sub_ne_zero.2 hne)
    have htriangle := abs_sub_le (j : ℚ) x r
    rw [abs_sub_comm x] at htriangle
    obtain hlt | hge := lt_or_ge |(r : ℚ) - x| |(j : ℚ) - x|
    · exact .inl hlt
    · exact .inr (.inr ⟨by linarith, htie (by linarith)⟩)

theorem RoundsTo.abs_sub_le {x : ℚ} {r : Nat} (h : RoundsTo x r) (j : ℤ) :
    |(r : ℚ) - x| ≤ |(j : ℚ) - x| := by
  obtain hlt | rfl | ⟨heq, -⟩ := h.nearest j
  · exact hlt.le
  · rw [Int.cast_natCast]
  · exact heq.le

theorem RoundsTo.le {x : ℚ} {r b : Nat} (h : RoundsTo x r) (hx : x < b) : r ≤ b := by
  obtain ⟨hhalf, -⟩ := h
  obtain ⟨-, hupper⟩ := abs_le.1 hhalf
  have hlt : (r : ℚ) < (b + 1 : Nat) := by push_cast; linarith
  exact Nat.lt_succ_iff.1 (Nat.cast_lt.1 hlt)

theorem RoundsTo.ge {x : ℚ} {r b : Nat} (h : RoundsTo x r) (hx : b ≤ x) : b ≤ r := by
  obtain ⟨hhalf, -⟩ := h
  obtain ⟨hlower, -⟩ := abs_le.1 hhalf
  have hlt : (b : ℚ) < (r + 1 : Nat) := by push_cast; linarith
  exact Nat.lt_succ_iff.1 (Nat.cast_lt.1 hlt)

/-! ### The rounded significand (rules R12 and R182) -/

/-- The weight of the last place in which `roundBinary64` keeps `n * 2^q`. -/
def lastPlace (n : Nat) (q : Int) : Int :=
  max (q + (Nat.log2 n : Nat) - 52) (-1074)

/-- The significand of `n * 2^q` above this place. -/
def roundedSignificand (n : Nat) (q : Int) : Nat :=
  roundHalfEven (n * 2 ^ (q - lastPlace n q).toNat) (lastPlace n q - q).toNat

theorem lastPlace_ge (n : Nat) (q : Int) : -1074 ≤ lastPlace n q :=
  le_max_right _ _

theorem roundBinary64_zero (s : SignBit) (q : Int) : roundBinary64 s 0 q = s ++ 0#63 :=
  if_pos rfl

/-- Where nothing is cut off, rounding in zero places is the identity. -/
theorem roundBinary64_eq (s : SignBit) {n : Nat} (hn : n ≠ 0) (q : Int) :
    roundBinary64 s n q =
      if 2047 * 2 ^ 52 ≤ (lastPlace n q + 1074).toNat * 2 ^ 52 + roundedSignificand n q
      then s ++ BitVec.ofNat 63 (2047 * 2 ^ 52)
      else s ++ BitVec.ofNat 63
        ((lastPlace n q + 1074).toNat * 2 ^ 52 + roundedSignificand n q) := by
  have hsig : (if lastPlace n q ≤ q then n * 2 ^ (q - lastPlace n q).toNat
      else roundHalfEven n (lastPlace n q - q).toNat) = roundedSignificand n q := by
    rw [roundedSignificand]
    split
    next hle => rw [show (lastPlace n q - q).toNat = 0 by omega, roundHalfEven_zero_right]
    next hlt => rw [show (q - lastPlace n q).toNat = 0 by omega, pow_zero, Nat.mul_one]
  rw [← hsig]
  exact if_neg hn

/-- `n * 2^q` in units of the last place. -/
theorem scaled_eq_div (n : Nat) (q : Int) :
    (n : ℚ) * 2 ^ (q - lastPlace n q) =
      ((n * 2 ^ (q - lastPlace n q).toNat : Nat) : ℚ) / 2 ^ (lastPlace n q - q).toNat := by
  rw [Nat.cast_mul, Nat.cast_pow, Nat.cast_two, mul_div_assoc, ← zpow_natCast, ← zpow_natCast,
    ← zpow_sub₀ two_ne_zero]
  congr 2
  omega

theorem roundsTo_roundedSignificand (n : Nat) (q : Int) :
    RoundsTo (n * 2 ^ (q - lastPlace n q)) (roundedSignificand n q) := by
  rw [scaled_eq_div]
  exact roundsTo_roundHalfEven _ _

theorem natCast_lt_zpow_log2 (n : Nat) : (n : ℚ) < 2 ^ ((Nat.log2 n : Int) + 1) :=
  mod_cast Nat.lt_log2_self

theorem zpow_log2_le {n : Nat} (hn : n ≠ 0) : (2 : ℚ) ^ (Nat.log2 n : Int) ≤ n :=
  mod_cast Nat.log2_self_le hn

/-- In units of the last place the number has at most 53 binary digits. -/
theorem scaled_lt (n : Nat) (q : Int) : (n : ℚ) * 2 ^ (q - lastPlace n q) < (2 ^ 53 : Nat) := by
  have hplace : q + Nat.log2 n - 52 ≤ lastPlace n q := le_max_left _ _
  calc (n : ℚ) * 2 ^ (q - lastPlace n q)
      < 2 ^ ((Nat.log2 n : Int) + 1) * 2 ^ (q - lastPlace n q) := by
        gcongr
        exact natCast_lt_zpow_log2 n
    _ = 2 ^ ((Nat.log2 n : Int) + 1 + (q - lastPlace n q)) := (zpow_add₀ two_ne_zero _ _).symm
    _ ≤ 2 ^ (53 : Int) := zpow_le_zpow_right₀ one_le_two (by omega)
    _ = (2 ^ 53 : Nat) := by norm_cast

/-- Above the subnormals it has all 53. -/
theorem scaled_ge {n : Nat} (hn : n ≠ 0) {q : Int} (hnormal : -1074 < lastPlace n q) :
    (2 ^ 52 : Nat) ≤ (n : ℚ) * 2 ^ (q - lastPlace n q) := by
  have hplace : lastPlace n q = q + Nat.log2 n - 52 := by
    rw [lastPlace] at hnormal ⊢
    omega
  calc ((2 ^ 52 : Nat) : ℚ) = 2 ^ (Nat.log2 n : Int) * 2 ^ (q - lastPlace n q) := by
        rw [← zpow_add₀ two_ne_zero, show (Nat.log2 n : Int) + (q - lastPlace n q) = 52 by omega]
        norm_cast
    _ ≤ n * 2 ^ (q - lastPlace n q) := by
        gcongr
        exact zpow_log2_le hn

theorem roundedSignificand_le (n : Nat) (q : Int) : roundedSignificand n q ≤ 2 ^ 53 :=
  (roundsTo_roundedSignificand n q).le (scaled_lt n q)

theorem roundedSignificand_ge {n : Nat} (hn : n ≠ 0) {q : Int} (hnormal : -1074 < lastPlace n q) :
    2 ^ 52 ≤ roundedSignificand n q :=
  (roundsTo_roundedSignificand n q).ge (scaled_ge hn hnormal)

/-! ### The rounded pattern -/

@[simp] theorem f64Sign_roundBinary64 (s : SignBit) (n : Nat) (q : Int) :
    f64Sign (roundBinary64 s n q) = s := by
  obtain rfl | hn := eq_or_ne n 0
  · rw [roundBinary64_zero, f64Sign_append]
  · rw [roundBinary64_eq s hn]
    split <;> exact f64Sign_append _ _

/-- A finite result is the pattern of the rounded significand. -/
theorem roundBinary64_finite {s : SignBit} {n : Nat} (hn : n ≠ 0) {q : Int}
    (hfinite : f64Exp (roundBinary64 s n q) ≠ 2047) :
    (lastPlace n q + 1074).toNat * 2 ^ 52 + roundedSignificand n q < 2047 * 2 ^ 52 ∧
      roundBinary64 s n q =
        s ++ BitVec.ofNat 63 ((lastPlace n q + 1074).toNat * 2 ^ 52 + roundedSignificand n q) := by
  rw [roundBinary64_eq s hn] at hfinite ⊢
  split at hfinite
  next =>
    rw [f64Exp_append s (by decide)] at hfinite
    exact absurd rfl hfinite
  next hlt => exact ⟨not_le.1 hlt, if_neg hlt⟩

theorem f64Value_roundBinary64 {s : SignBit} {n : Nat} (hn : n ≠ 0) {q : Int}
    (hfinite : f64Exp (roundBinary64 s n q) ≠ 2047) :
    f64Value (roundBinary64 s n q) =
      signFactor s * roundedSignificand n q * 2 ^ lastPlace n q := by
  have hlow := lastPlace_ge n q
  have hk : (lastPlace n q + 1074).toNat = 0 ∨ 2 ^ 52 ≤ roundedSignificand n q := by
    obtain hsub | hnormal := hlow.eq_or_lt
    · exact .inl (by omega)
    · exact .inr (roundedSignificand_ge hn hnormal)
  obtain ⟨hlt, h⟩ := roundBinary64_finite hn hfinite
  rw [h, f64Value_append s hk (roundedSignificand_le n q) hlt, Int.toNat_of_nonneg (by omega),
    Int.add_sub_cancel]

theorem f64Frac_roundBinary64 {s : SignBit} {n : Nat} (hn : n ≠ 0) {q : Int}
    (hfinite : f64Exp (roundBinary64 s n q) ≠ 2047) :
    f64Frac (roundBinary64 s n q) % 2 = roundedSignificand n q % 2 := by
  obtain ⟨hlt, h⟩ := roundBinary64_finite hn hfinite
  rw [h, f64Frac_append s (by omega)]
  omega

/-- The exponent field of a normal result: one above the place's, or two where rounding carries. -/
theorem f64Exp_roundBinary64 (s : SignBit) {n : Nat} (hn : n ≠ 0) {q : Int}
    (hlow : -1074 < lastPlace n q) (hhigh : lastPlace n q ≤ 970) :
    lastPlace n q + 1075 ≤ f64Exp (roundBinary64 s n q) ∧
      f64Exp (roundBinary64 s n q) ≤ lastPlace n q + 1076 := by
  have hle := roundedSignificand_le n q
  have hge := roundedSignificand_ge hn hlow
  rw [roundBinary64_eq s hn, if_neg (by omega), f64Exp_append s (by omega)]
  omega

/-! ### Nearness (log entry 5) -/

theorem exists_signed_integer (s s' : SignBit) (m : Nat) :
    ∃ j : ℤ, signFactor s' * m = signFactor s * j := by
  obtain rfl | rfl := signBit_cases s <;> obtain rfl | rfl := signBit_cases s'
  · exact ⟨m, by simp⟩
  · exact ⟨-m, by simp [signFactor]⟩
  · exact ⟨-m, by simp [signFactor]⟩
  · exact ⟨m, by simp⟩

theorem f64Significand_lt (f : Binary64) : f64Significand f < 2 ^ 53 := by
  have hfrac := f64Frac_lt f
  rw [f64Significand]
  split <;> omega

theorem f64Scale_ge (f : Binary64) : -1074 ≤ f64Scale f := by
  rw [f64Scale]
  split <;> omega

/-- A finite value is a whole number of units of `2^u`, or too small to have its last place
there. -/
theorem f64Value_multiple_or_small (s : SignBit) (z : Binary64) (u : Int) :
    (∃ j : ℤ, f64Value z = signFactor s * j * 2 ^ u) ∨
      (-1074 < u ∧ |f64Value z| < (2 ^ 52 : Nat) * 2 ^ u) := by
  obtain hle | hlt := le_or_gt u (f64Scale z)
  · obtain ⟨j, hj⟩ :=
      exists_signed_integer s (f64Sign z) (f64Significand z * 2 ^ (f64Scale z - u).toNat)
    refine .inl ⟨j, ?_⟩
    rw [← hj, f64Value, Nat.cast_mul, Nat.cast_pow, Nat.cast_two, ← mul_assoc,
      mul_assoc _ _ (2 ^ u), ← zpow_natCast, ← zpow_add₀ two_ne_zero]
    congr 2
    omega
  · have hscale := f64Scale_ge z
    refine .inr ⟨by omega, ?_⟩
    rw [f64Value, abs_mul, abs_mul, abs_signFactor, one_mul, Nat.abs_cast,
      abs_of_pos (zpow_pos two_pos _)]
    calc (f64Significand z : ℚ) * 2 ^ f64Scale z
        < (2 ^ 53 : Nat) * 2 ^ f64Scale z := by
          gcongr
          exact f64Significand_lt z
      _ ≤ (2 ^ 53 : Nat) * 2 ^ (u - 1) := by
          gcongr
          · exact one_le_two
          · omega
      _ = (2 ^ 52 : Nat) * 2 ^ u := by
          rw [zpow_sub_one₀ two_ne_zero]
          push_cast
          ring

theorem abs_signed_sub (s : SignBit) (x y : ℚ) (u : Int) :
    |signFactor s * y * 2 ^ u - signFactor s * x * 2 ^ u| = |y - x| * 2 ^ u := by
  have hpos : (0 : ℚ) < 2 ^ u := by positivity
  rw [mul_assoc, mul_assoc, ← mul_sub, ← sub_mul, abs_mul, abs_mul, abs_signFactor, one_mul,
    abs_of_pos hpos]

theorem f64Value_sign_zero (s : SignBit) : f64Value (s ++ 0#63) = 0 := by
  have h := f64Value_append s (k := 0) (sig := 0) (.inl rfl) (by decide) (by decide)
  rw [Nat.cast_zero, mul_zero, zero_mul ((2 : ℚ) ^ _)] at h
  exact h

/-- A value below the first number of the result's binade is further away than that number. -/
theorem abs_sub_lt_of_small (s : SignBit) {n : Nat} (hn : n ≠ 0) {q : Int} {v : ℚ}
    (hnormal : -1074 < lastPlace n q) (hv : |v| < (2 ^ 52 : Nat) * 2 ^ lastPlace n q) :
    |(roundedSignificand n q : ℚ) - n * 2 ^ (q - lastPlace n q)| * 2 ^ lastPlace n q <
      |v - signFactor s * (n * 2 ^ (q - lastPlace n q)) * 2 ^ lastPlace n q| := by
  have hpos : (0 : ℚ) < 2 ^ lastPlace n q := by positivity
  have hge := scaled_ge hn hnormal
  have hnear := (roundsTo_roundedSignificand n q).abs_sub_le (2 ^ 52 : Nat)
  rw [Int.cast_natCast, abs_sub_comm ((2 ^ 52 : Nat) : ℚ),
    abs_of_nonneg (sub_nonneg.2 hge)] at hnear
  have habs : |signFactor s * (n * 2 ^ (q - lastPlace n q)) * 2 ^ lastPlace n q| =
      n * 2 ^ (q - lastPlace n q) * 2 ^ lastPlace n q := by
    rw [abs_mul, abs_mul, abs_signFactor, one_mul, abs_of_pos hpos,
      abs_of_nonneg ((Nat.cast_nonneg _).trans hge)]
  calc _ ≤ ((n : ℚ) * 2 ^ (q - lastPlace n q) - (2 ^ 52 : Nat)) * 2 ^ lastPlace n q := by gcongr
    _ = |signFactor s * (n * 2 ^ (q - lastPlace n q)) * 2 ^ lastPlace n q| -
          (2 ^ 52 : Nat) * 2 ^ lastPlace n q := by rw [habs, sub_mul]
    _ < |signFactor s * (n * 2 ^ (q - lastPlace n q)) * 2 ^ lastPlace n q| - |v| := by gcongr
    _ ≤ |v - signFactor s * (n * 2 ^ (q - lastPlace n q)) * 2 ^ lastPlace n q| := by
      rw [abs_sub_comm v]
      exact abs_sub_abs_le_abs_sub _ _

/-- Rounding `(-1)^s * n * 2^q` is nearest among all finite values. Those with a last place at or
above the result's are its multiples, and the rounded integer is nearest among integers; those below
are too small. -/
theorem roundBinary64_nearest {s : SignBit} {n : Nat} {q : Int}
    (hfinite : f64Exp (roundBinary64 s n q) ≠ 2047) (z : Binary64) :
    |f64Value (roundBinary64 s n q) - signFactor s * n * 2 ^ q|
        < |f64Value z - signFactor s * n * 2 ^ q| ∨
      f64Value z = f64Value (roundBinary64 s n q) ∨
      (|f64Value (roundBinary64 s n q) - signFactor s * n * 2 ^ q|
          = |f64Value z - signFactor s * n * 2 ^ q| ∧
        f64Frac (roundBinary64 s n q) % 2 = 0) := by
  obtain rfl | hn := eq_or_ne n 0
  · rw [roundBinary64_zero, f64Value_sign_zero, Nat.cast_zero, mul_zero, zero_mul, sub_zero,
      sub_zero, abs_zero, abs_pos]
    exact (eq_or_ne (f64Value z) 0).symm.imp_right .inl
  · have hpos : (0 : ℚ) < 2 ^ lastPlace n q := by positivity
    have hexact : signFactor s * n * 2 ^ q =
        signFactor s * (n * 2 ^ (q - lastPlace n q)) * 2 ^ lastPlace n q := by
      rw [mul_assoc, mul_assoc, mul_assoc, ← zpow_add₀ two_ne_zero, Int.sub_add_cancel]
    rw [f64Frac_roundBinary64 hn hfinite, f64Value_roundBinary64 hn hfinite, hexact, abs_signed_sub]
    obtain ⟨j, hj⟩ | ⟨hnormal, hsmall⟩ := f64Value_multiple_or_small s z (lastPlace n q)
    · rw [hj, abs_signed_sub]
      obtain hlt | rfl | ⟨heq, heven⟩ := (roundsTo_roundedSignificand n q).nearest j
      · exact .inl (mul_lt_mul_of_pos_right hlt hpos)
      · exact .inr (.inl (by rw [Int.cast_natCast]))
      · exact .inr (.inr ⟨by rw [heq], heven⟩)
    · exact .inl (abs_sub_lt_of_small s hn hnormal hsmall)

theorem signFactor_xor (s s' : SignBit) : signFactor (s ^^^ s') = signFactor s * signFactor s' := by
  obtain rfl | rfl := signBit_cases s <;> obtain rfl | rfl := signBit_cases s' <;>
    simp [signFactor]

/-- The exact product of two finite values, as `fp64Mul` rounds it. -/
theorem f64Value_mul (x y : Binary64) :
    f64Value x * f64Value y =
      signFactor (f64Sign x ^^^ f64Sign y) * (f64Significand x * f64Significand y : Nat) *
        2 ^ (f64Scale x + f64Scale y) := by
  rw [f64Value, f64Value, signFactor_xor, zpow_add₀ two_ne_zero, Nat.cast_mul]
  ring

/-- Settles O49: the product is one rounding of the exact product. -/
theorem fp64MulRoundsToNearestEven : Obligations.Fp64MulRoundsToNearestEven := by
  intro x y hx hy hfinite z _
  rw [fp64Mul_finite hx hy] at hfinite ⊢
  rw [f64Value_mul]
  exact roundBinary64_nearest hfinite z

/-! ### D2F's first factor (rule R182) -/

/-- An integer below `2^53` has its last place at or below its units. -/
theorem lastPlace_of_lt {m : Nat} (hm0 : m ≠ 0) (hm : m < 2 ^ 53) :
    lastPlace m 0 = (Nat.log2 m : Int) - 52 ∧ Nat.log2 m < 53 := by
  have hlog : Nat.log2 m < 53 := (Nat.log2_lt hm0).2 hm
  rw [lastPlace]
  omega

/-- Nothing is cut off, so the significand is the integer, shifted up. -/
theorem roundedSignificand_of_lt {m : Nat} (hm0 : m ≠ 0) (hm : m < 2 ^ 53) :
    (roundedSignificand m 0 : ℚ) * 2 ^ lastPlace m 0 = m := by
  obtain ⟨hplace, hlog⟩ := lastPlace_of_lt hm0 hm
  rw [roundedSignificand, show (lastPlace m 0 - 0).toNat = 0 by omega, roundHalfEven_zero_right,
    Nat.cast_mul, Nat.cast_pow, Nat.cast_two, mul_assoc, ← zpow_natCast, ← zpow_add₀ two_ne_zero,
    show ((0 - lastPlace m 0).toNat : Int) + lastPlace m 0 = 0 by omega, zpow_zero, mul_one]

theorem f64Exp_f64OfSigned (s : SignBit) {m : Nat} (hm0 : m ≠ 0) (hm : m < 2 ^ 53) :
    Nat.log2 m + 1023 ≤ f64Exp (f64OfSigned s m) ∧
      f64Exp (f64OfSigned s m) ≤ Nat.log2 m + 1024 := by
  obtain ⟨hplace, hlog⟩ := lastPlace_of_lt hm0 hm
  have hexp := f64Exp_roundBinary64 s hm0 (q := 0) (by omega) (by omega)
  rw [f64OfSigned]
  omega

theorem f64OfSigned_zero (s : SignBit) : f64OfSigned s 0 = s ++ 0#63 :=
  roundBinary64_zero s 0

theorem f64Exp_sign_zero (s : SignBit) : f64Exp (s ++ 0#63) = 0 :=
  f64Exp_append s (by decide)

/-- Settles O46: zero keeps its sign alone, and any other integer fits the significand whole. -/
theorem d2fSignificandIsExact : Obligations.D2fSignificandIsExact := by
  intro s m hm
  obtain rfl | hm0 := eq_or_ne m 0
  · rw [f64OfSigned_zero, f64Exp_sign_zero, f64Sign_append, f64Value_sign_zero, Nat.cast_zero,
      mul_zero]
    exact ⟨by decide, rfl, rfl⟩
  · obtain ⟨-, hlog⟩ := lastPlace_of_lt hm0 hm
    have hexp := f64Exp_f64OfSigned s hm0 hm
    have hfinite : f64Exp (f64OfSigned s m) ≠ 2047 := by omega
    refine ⟨hfinite, f64Sign_roundBinary64 s m 0, ?_⟩
    rw [f64OfSigned, f64Value_roundBinary64 hm0 hfinite, mul_assoc, roundedSignificand_of_lt hm0 hm]

/-! ### The range of D2F's products (rule R182) -/

theorem f64Significand_ge {f : Binary64} (hf : f64Exp f ≠ 0) : 2 ^ 52 ≤ f64Significand f := by
  rw [f64Significand_of_normal hf]
  omega

/-- The product of two significands has 105 or 106 binary digits. -/
theorem log2_significands {x y : Binary64} (hx : f64Exp x ≠ 0) (hy : f64Exp y ≠ 0) :
    f64Significand x * f64Significand y ≠ 0 ∧
      104 ≤ Nat.log2 (f64Significand x * f64Significand y) ∧
      Nat.log2 (f64Significand x * f64Significand y) < 106 := by
  have hlow : 2 ^ 52 * 2 ^ 52 ≤ f64Significand x * f64Significand y :=
    Nat.mul_le_mul (f64Significand_ge hx) (f64Significand_ge hy)
  have hhigh : f64Significand x * f64Significand y < 2 ^ 53 * 2 ^ 53 :=
    Nat.mul_lt_mul'' (f64Significand_lt x) (f64Significand_lt y)
  have hne : f64Significand x * f64Significand y ≠ 0 := by omega
  exact ⟨hne, (Nat.le_log2 hne).2 hlow, (Nat.log2_lt hne).2 hhigh⟩

theorem f64Sign_fp64Mul {x y : Binary64} (hx : f64Exp x ≠ 2047) (hy : f64Exp y ≠ 2047) :
    f64Sign (fp64Mul x y) = f64Sign x ^^^ f64Sign y := by
  rw [fp64Mul_finite hx hy, f64Sign_roundBinary64]

/-- Where the exponents' sum stays in the range, the product's exponent is that sum without one
bias, and up to two more for carries. -/
theorem f64Exp_fp64Mul {x y : Binary64} (hx0 : f64Exp x ≠ 0) (hx : f64Exp x ≠ 2047)
    (hy0 : f64Exp y ≠ 0) (hy : f64Exp y ≠ 2047) (hlow : 1024 < f64Exp x + f64Exp y)
    (hhigh : f64Exp x + f64Exp y ≤ 3067) :
    f64Exp x + f64Exp y ≤ f64Exp (fp64Mul x y) + 1023 ∧
      f64Exp (fp64Mul x y) + 1021 ≤ f64Exp x + f64Exp y := by
  obtain ⟨hne, hlog104, hlog106⟩ := log2_significands hx0 hy0
  have hscale : f64Scale x + f64Scale y = (f64Exp x : Int) + f64Exp y - 2150 := by
    rw [f64Scale, f64Scale, if_neg hx0, if_neg hy0]
    omega
  have hplace : lastPlace (f64Significand x * f64Significand y) (f64Scale x + f64Scale y) =
      (f64Exp x : Int) + f64Exp y - 2202 + Nat.log2 (f64Significand x * f64Significand y) := by
    rw [lastPlace, hscale]
    omega
  have hexp := f64Exp_roundBinary64 (f64Sign x ^^^ f64Sign y) hne
    (q := f64Scale x + f64Scale y) (by omega) (by omega)
  rw [fp64Mul_finite hx hy]
  omega

/-- A zero factor gives the zero of the product's sign. -/
theorem fp64Mul_zero_left (s : SignBit) {y : Binary64} (hy : f64Exp y ≠ 2047) :
    fp64Mul (s ++ 0#63) y = (s ^^^ f64Sign y) ++ 0#63 := by
  have hexp := f64Exp_sign_zero s
  have hsig : f64Significand (s ++ 0#63) = 0 := by
    rw [f64Significand_of_tiny hexp]
    exact f64Frac_append s (by decide)
  rw [fp64Mul_finite (by omega) hy, hsig, Nat.zero_mul, roundBinary64_zero, f64Sign_append]

/-- The entries of the power-of-ten table are positive, and far from both ends of the exponents. -/
theorem pow10Rows_range : ∀ n < 102, f64Sign (pow10Rows.getD n 0) = 0#1 ∧
    843 ≤ f64Exp (pow10Rows.getD n 0) ∧ f64Exp (pow10Rows.getD n 0) ≤ 1179 := by
  decide +kernel

theorem romPow10_range {e : Int} (hlow : -54 ≤ e) (hhigh : e ≤ 47) :
    f64Sign (romPow10 e) = 0#1 ∧ 843 ≤ f64Exp (romPow10 e) ∧ f64Exp (romPow10 e) ≤ 1179 := by
  rw [romPow10, pow10Min, Int.sub_neg]
  exact pow10Rows_range _ (by omega)

theorem d2fScale_fields : f64Sign d2fScale = 0#1 ∧ f64Exp d2fScale = 999 := by decide

theorem d2fBits_of_exponent_le {w : Word} (he : (decodeWord w).e ≤ 47) :
    d2fBits w = fp64Mul (fp64Mul (f64OfSigned (signOf w) (decodeWord w).m)
      (romPow10 (decodeWord w).e)) d2fScale := by
  obtain ⟨-, hlow, -⟩ := decodeWord_range w
  have htable : ¬ ((decodeWord w).e < pow10Min ∨ pow10Max < (decodeWord w).e) := by
    rw [pow10Min, pow10Max]
    omega
  simp only [d2fBits, if_neg htable, decodeWord_s]

/-- A decoded mantissa has 4 to 27 binary digits. -/
theorem log2_mantissa {w : Word} (hm : (decodeWord w).m ≠ 0) :
    3 ≤ Nat.log2 (decodeWord w).m ∧ Nat.log2 (decodeWord w).m < 27 := by
  have hlow := ten_le_of_mantissa_ne_zero hm
  obtain ⟨hhigh, -, -⟩ := decodeWord_range w
  exact ⟨(Nat.le_log2 hm).2 (by omega), (Nat.log2_lt hm).2 (by omega)⟩

theorem d2fBits_zero {w : Word} (he : (decodeWord w).e ≤ 47) (hm : (decodeWord w).m = 0) :
    d2fBits w = signOf w ++ 0#63 := by
  obtain ⟨-, hlow, -⟩ := decodeWord_range w
  obtain ⟨hrom, hromLow, hromHigh⟩ := romPow10_range (e := (decodeWord w).e) (by omega) he
  obtain ⟨hscale, hscaleExp⟩ := d2fScale_fields
  rw [d2fBits_of_exponent_le he, hm, f64OfSigned_zero, fp64Mul_zero_left _ (by omega), hrom,
    fp64Mul_zero_left _ (by omega), hscale, BitVec.xor_zero, BitVec.xor_zero]

theorem d2fBits_nonzero {w : Word} (he : (decodeWord w).e ≤ 47) (hm : (decodeWord w).m ≠ 0) :
    f64Sign (d2fBits w) = signOf w ∧ f64Class (d2fBits w) = .normal := by
  obtain ⟨hmHigh, hlow, -⟩ := decodeWord_range w
  obtain ⟨hrom, hromLow, hromHigh⟩ := romPow10_range (e := (decodeWord w).e) (by omega) he
  obtain ⟨hscale, hscaleExp⟩ := d2fScale_fields
  have hlog := log2_mantissa hm
  have hsigned := f64Exp_f64OfSigned (signOf w) hm (by omega)
  obtain ⟨p, hp⟩ : ∃ p, p = fp64Mul (f64OfSigned (signOf w) (decodeWord w).m)
    (romPow10 (decodeWord w).e) := ⟨_, rfl⟩
  have hfirst : 846 ≤ f64Exp p ∧ f64Exp p ≤ 1208 := by
    have h := f64Exp_fp64Mul (x := f64OfSigned (signOf w) (decodeWord w).m)
      (y := romPow10 (decodeWord w).e) (by omega) (by omega) (by omega) (by omega) (by omega)
      (by omega)
    rw [hp]
    omega
  have hsecond := f64Exp_fp64Mul (x := p) (y := d2fScale) (by omega) (by omega) (by omega)
    (by omega) (by omega) (by omega)
  have hsign : f64Sign p = signOf w := by
    rw [hp, f64Sign_fp64Mul (by omega) (by omega), hrom, f64OfSigned, f64Sign_roundBinary64,
      BitVec.xor_zero]
  rw [d2fBits_of_exponent_le he, ← hp, f64Class_eq_normal_iff,
    f64Sign_fp64Mul (by omega) (by omega), hsign, hscale, BitVec.xor_zero]
  exact ⟨rfl, by omega, by omega⟩

theorem sign_zero_eq_ofNat (s : SignBit) : s ++ 0#63 = BitVec.ofNat 64 (s.toNat * 2 ^ 63) := by
  revert s
  decide

/-- Settles O48: a zero mantissa stays zero through both products, and any other keeps its exponent
far from both ends. -/
theorem d2fNeverOverflowsOrUnderflows : Obligations.D2fNeverOverflowsOrUnderflows := by
  intro w he
  rw [fieldS_eq_signOf_toNat, ← sign_zero_eq_ofNat]
  obtain hm | hm := eq_or_ne (decodeWord w).m 0
  · have hzero := d2fBits_zero he hm
    exact ⟨by rw [hzero, f64Sign_append], absurd hm, fun _ => hzero⟩
  · obtain ⟨hsign, hnormal⟩ := d2fBits_nonzero he hm
    exact ⟨hsign, fun _ => hnormal, (absurd · hm)⟩

/-! ### D2F on its port (rules R178 and R182) -/

theorem exec_d2f (w : Word) (s : State) :
    exec (.d2f w) s = .next { s with out := .binary (d2fBits w), illegal := false } := by
  rw [exec, execD2f, decimalToBinaryUnit, drive_of_command (by decide)]

/-- Settles O45: the two branches of the table's range, with the quiet NaN as a number. -/
theorem d2fReturnsTheRoundedProducts : Obligations.D2fReturnsTheRoundedProducts := by
  intro w s
  have hnan : f64QuietNaN (decodeWord w).s =
      BitVec.ofNat 64 (fieldS w * 2 ^ 63 + 0x7FF8000000000000) := by
    rw [f64QuietNaN_eq_ofNat, decodeWord_s, fieldS_eq_signOf_toNat]
  rw [exec_d2f, d2fBits, hnan]
  rfl

/-- Settles O50: the patterns are constants, and the conversions are evaluated. -/
theorem bridgeReturnsSmallNumbersExactly : Obligations.BridgeReturnsSmallNumbersExactly := by
  unfold Obligations.BridgeReturnsSmallNumbersExactly
  decide

end Sys2Proof.Proofs

/-! PROOFS. The ranges of results: each unit's, and the invariant that every step keeps. -/

namespace Sys2Proof.Proofs

open Sys2Proof Sys2Proof.Machine Sys2Proof.Safety Sys2Proof.Spec

/-! ### The three kinds of text (rule R191) -/

theorem isDigitByte_digitCode (n k : Nat) : isDigitByte (digitCode n k) = true := by
  have hdigit : n / 10 ^ k % 10 < 10 := Nat.mod_lt _ (by decide)
  rw [digitCode]
  interval_cases n / 10 ^ k % 10 <;> rfl

theorem isSignByte_signCode (negative : Prop) [Decidable negative] :
    isSignByte (signCode negative) = true := by
  rw [signCode]
  split <;> rfl

/-- The generic text has its digits and signs where rule R190 puts them. -/
theorem isGenericText_genericBytes (s m : Nat) (e : Int) :
    isGenericText (genericBytes s m e) = true := by
  simp [isGenericText, genericBytes, isDigitByte_digitCode, isSignByte_signCode]

/-- The texts that `ResultsInRange` admits. -/
theorem rendererUnit_cases (w : Word) :
    rendererUnit w = nanText ∨ rendererUnit w = infinityText 0x2B ∨
      rendererUnit w = infinityText 0x2D ∨ isGenericText (rendererUnit w) = true := by
  cases h : classify w with
  | infinity =>
    rw [rendererUnit_of_infinity h, signCode]
    split
    · exact .inr (.inr (.inl rfl))
    · exact .inr (.inl rfl)
  | nan => exact .inl (rendererUnit_of_nan h)
  | valid =>
    rw [rendererUnit_of_valid h]
    exact .inr (.inr (.inr (isGenericText_genericBytes _ _ _)))

/-! ### The classes of D2F's results (rules R182 and R183) -/

theorem f64Class_sign_zero (s : SignBit) :
    f64Class (s ++ 0#63) = .tiny ∧ f64Frac (s ++ 0#63) = 0 := by
  revert s
  decide

theorem f64Sign_f64QuietNaN (s : SignBit) : f64Sign (f64QuietNaN s) = s :=
  f64Sign_append s _

/-- Inside the table a normal number or a zero (rule R182), outside it the quiet NaN (rule R183). -/
theorem d2fBits_cases (w : Word) :
    (f64Class (d2fBits w) = .normal ∨
      (f64Class (d2fBits w) = .tiny ∧ f64Frac (d2fBits w) = 0)) ∨
    d2fBits w = f64QuietNaN (f64Sign (d2fBits w)) := by
  obtain he | he := le_or_gt (decodeWord w).e 47
  · obtain hm | hm := eq_or_ne (decodeWord w).m 0
    · rw [d2fBits_zero he hm]
      exact .inl (.inr (f64Class_sign_zero _))
    · obtain ⟨-, hnormal⟩ := d2fBits_nonzero he hm
      exact .inl (.inl hnormal)
  · have hnan : d2fBits w = f64QuietNaN (signOf w) := by
      rw [d2fBits_of_exponent_gt he, f64QuietNaN_eq_ofNat, fieldS_eq_signOf_toNat]
    rw [hnan, f64Sign_f64QuietNaN]
    exact .inr rfl

/-! ### The invariant -/

theorem decoded_triple_range (w : Word) :
    (BitVec.ofNat 27 (decodeWord w).m).toNat ≤ 103554431 ∧
      -48 ≤ signed (toExpBits (decodeWord w).e) ∧ signed (toExpBits (decodeWord w).e) ≤ 48 := by
  rw [decoded_mantissa_toNat, signed, decoded_exponent_toInt]
  exact decodeWord_range w

/-- Each command drives results in range, where the op code on the ports is its own. Of the values
only NEG's has no bound on `F`. -/
theorem exec_resultsInRange (i : Instr) {s : State} (hop : s.ins.op = i.opcode) :
    ∃ t, exec i s = .next t ∧ ResultsInRange t := by
  cases i with
  | encm sign mant8 exp =>
    exact ⟨_, exec_encm sign mant8 exp s, mantField_encmWord_le sign mant8 exp, rfl⟩
  | encd sign lead trail exp =>
    exact ⟨_, exec_encd sign lead trail exp s, mantField_encdWord_le sign lead trail exp, rfl⟩
  | dec w =>
    obtain ⟨hm, hlow, hhigh⟩ := decoded_triple_range w
    exact ⟨_, exec_dec w s, hm, hlow, hhigh, rfl⟩
  | shift x amt => exact ⟨_, exec_shift x amt s, rfl⟩
  | add a b => exact ⟨_, exec_add a b s, .inl (mantField_addWord_le a b), rfl⟩
  | sub a b => exact ⟨_, exec_sub a b s, .inl (mantField_addWord_le a (negWord b)), rfl⟩
  | neg a => exact ⟨_, exec_neg a s, .inr hop, rfl⟩
  | mul a b => exact ⟨_, exec_mul a b s, .inl (mantField_mulWord_le a b), rfl⟩
  | div a b => exact ⟨_, exec_div a b s, .inl (mantField_divWord_le a b), rfl⟩
  | f2d f => exact ⟨_, exec_f2d f s, mantField_f2dWord_le f, rfl⟩
  | d2f w => exact ⟨_, exec_d2f w s, d2fBits_cases w, rfl⟩
  | fmt w => exact ⟨_, exec_fmt w s, rendererUnit_cases w, rfl⟩
  | reservedC | reservedD | reservedE | reservedF =>
    exact ⟨_, exec_of_not_wellFormed rfl s, rfl⟩

/-- A step drives every output anew, so what it leaves is in range whatever stood there before. -/
theorem resultsInRange_of_step {s t : State} (hstep : step s = .next t) : ResultsInRange t := by
  obtain ⟨u, hexec, hrange⟩ := exec_resultsInRange (decode s.ins) (opcode_decode s.ins).symm
  obtain rfl : u = t := Host.Outcome.next.inj (hexec.symm.trans hstep)
  exact hrange

/-- Settles O54: the invariant holds after every step, so also after one from a state in range. -/
theorem stepKeepsResultsInRange : Obligations.StepKeepsResultsInRange :=
  fun _ _ _ => resultsInRange_of_step

/-- Settles O55: at reset a step changes nothing, so the outputs there are a step's. -/
theorem resetResultsAreInRange : Obligations.ResetResultsAreInRange := by
  obtain ⟨hsettled, -⟩ := resetOutputsFollowInputs
  exact resultsInRange_of_step hsettled

end Sys2Proof.Proofs
